-- ==== Sys2Proof/Word.lean ====
section
/-! DEFINITION. The data types of the machine (spec/00_scope.md R5, R6): one-bit data, five-bit instruction words, the two
fields of a word, and the index types of the four address spaces. Every quantity is unsigned (R6). -/

namespace Sys2Proof

/-- A one-bit datum, 0 or 1 (`DATA_W`, R5). -/
abbrev Bit := BitVec 1

/-- A five-bit instruction word, `w[4]` its most significant bit (`INSTR_W`, R5, R6). -/
abbrev Word := BitVec 5

/-- The opcode field `w[4:3]` (`OPC_W`, R5, R46). -/
abbrev Opcode := BitVec 2

/-- The operand field `w[2:0]` (`OPD_W`, R5, R46). -/
abbrev Operand := BitVec 3

/-- A line 0 to 7 of a bank; the program counter holds one (`N_LINES`, R5, R14). -/
abbrev Line := BitVec 3

/-- A bank number 0 to 4; no other value exists (`N_BANKS`, R5, R13, D9). -/
abbrev Bank := Fin 5

/-- The index of an input line, 0 to 6 (`N_IN`, R5, R15). -/
abbrev InputLine := Fin 7

/-- The index of an output latch, 0 or 1 (`N_OUT`, R5, R16). -/
abbrev OutputLatch := Fin 2

/-- Instruction memory: 5 banks of 8 words, a fixed size (R18, R30). -/
abbrev IMem := Vector (Vector Word 8) 5

/-- One byte of the exported log (R130); the machine itself has no bytes (R33). -/
abbrev Byte := BitVec 8

/-- Program text, character by character (R55). -/
abbrev Text := List Char

/-- The zero word `00000`, which is LOAD IN_0 (R52). -/
def zeroWord : Word := 0

/-- Instruction memory after the clear that precedes every load: 40 zero words (R139). -/
def IMem.zero : IMem := Vector.replicate 5 (Vector.replicate 8 zeroWord)

end Sys2Proof
end

