-- ==== Sys2Proof/Syntax.lean ====
section
/-! DEFINITION. The instructions (one constructor per row of spec/opcode_table.json, 18 rows that cover all 32 words, R50), a line
of program text as the loader's pattern sees it (R55 to R62), and the entries of the execution trace (R125 to R129). -/

namespace Sys2Proof

/-- The sub-forms of the four opcodes (R50, R54). NOR keeps its ignored operand, since the trace entry reports the operand
bits of the word (R125) and the word's encoding holds them. -/
inductive Instr where
  | loadIn0
  | loadIn1
  | loadIn2
  | loadIn3
  | loadIn4
  | loadIn5
  | loadIn6
  | loadRam
  | nor (x : Operand)
  | storeOut0
  | storeOut1
  | storeBank0
  | storeBank1
  | storeBank2
  | storeBank3
  | storeBank4
  | storeRam
  | jump (k : Line)
deriving DecidableEq, Repr, Inhabited

/-- One line of program text as the loader's scan classifies it (R62, D6, D17). -/
inductive SourceLine where
  /-- A line in the exact spelling of R55: the two address digits, and the unsigned value of its bit string, `none` where the bit
  string is empty once the underscores are stripped (R59, R142). -/
  | instruction (bankDigit lineDigit : Fin 10) (value : Option Nat)
  /-- The four-character shape `#dd:` occurs, but not in the exact spelling at the start of the line (`P_LINE_SYNTAX`, D6). -/
  | nearMiss
  /-- The shape `#dd:` occurs nowhere: the line is ignored (R62). -/
  | nonMatching
deriving DecidableEq, Repr, Inhabited

/-- What one executed instruction did, as data; a log line's effect description is a rendering of it (R75, R125). -/
inductive Effect where
  | loadIn (k : InputLine) (v : Bit)
  | loadRam (v : Bit)
  | nor (v : Bit)
  | storeOut (j : OutputLatch) (v : Bit)
  | storeBank (b : Bank)
  | storeRam (v : Bit)
  | jump (k : Line) (taken : Bool)
deriving DecidableEq, Repr, Inhabited

/-- A trace entry: the caller's tick number, the address the instruction was fetched from, its decoded fields and its effect
(R75, R125). -/
structure TraceEntry where
  tick : Int
  bank : Bank
  line : Line
  opcode : Opcode
  operand : Operand
  effect : Effect
deriving DecidableEq, Repr, Inhabited

/-- An item of the trace: the sentinel that reset leaves, or the entry of an executed step (R129). -/
inductive TraceItem where
  | sentinel
  | entry (e : TraceEntry)
deriving DecidableEq, Repr, Inhabited

end Sys2Proof
end

