-- ==== Sys2Proof/Config.lean ====
section
/-! DEFINITION. The parameters of the spec (spec/00_scope.md R5) and the values the spec leaves open (spec/92_eei_decisions.md), each of
the latter an opaque constant, so that no proof can see what it is. -/

namespace Sys2Proof.Config

/-- Length of the trace's bounded view, `TRACE_VIEW` (R5, R126). -/
def traceView : Nat := 20

/-- First value that does not fit an instruction word: a bit string of this value or more is not well-formed (R60). -/
def wordValues : Nat := 32

/-- Number of banks, `N_BANKS` (R5): bank digits below it are addresses (R58). -/
def nBanks : Nat := 5

/-- Number of lines of a bank, `N_LINES` (R5): line digits below it are addresses (R58). -/
def nLines : Nat := 8

/-- Ticks from 0 below this bound have a log line; the rendering of others is not stated (R127, D13). -/
def tickBound : Int := 100000

/-- The levels of the input lines before the environment has set them, `P_IN_INIT`: DESIGN CHOICE, a free value, safe (R15, D3,
U1; log 1). -/
opaque inInit : Vector Bit 7

/-- The registers, instruction memory and trace between construction and the first `power_on`, `P_PRE_POWER_STATE` (R25, D4). -/
structure PrePower where
  acc : Bit
  ram : Bit
  bank : Bank
  pc : Line
  outs : Vector Bit 2
  imem : IMem
  history : List TraceItem
  view : List TraceItem
deriving DecidableEq, Repr, Inhabited

/-- The values of `P_PRE_POWER_STATE`: DESIGN CHOICE, free values, safe (R25, D4, U2; log 2). -/
opaque prePower : PrePower

/-- The effect description of a trace entry whose text the spec does not give (R128, D16, U10): DESIGN CHOICE, a free value, safe
(log 15). -/
opaque effectText : TraceEntry → List Byte

/-- The rendering of the sentinel entry, which the spec does not give (R129, N17, D16): DESIGN CHOICE, a free value, safe
(log 15). -/
opaque sentinelText : List Byte

end Sys2Proof.Config
end

