-- ==== Sys2Proof/WellFormed.lean ====
section
/-! DEFINITION. Which terms the machine gives a meaning: every instruction (R51), and the program lines whose load the spec defines
(spec/30_encoding.md R60, R62). -/

namespace Sys2Proof

/-- Every instruction is well-formed: "there is no notion of an illegal opcode" nor "of an illegal operand" (R51); the fields'
types hold exactly the values a word can hold. -/
def Instr.wellFormed : Instr → Bool
  | .loadIn0 | .loadIn1 | .loadIn2 | .loadIn3 | .loadIn4 | .loadIn5 | .loadIn6 | .loadRam => true
  | .nor _ => true
  | .storeOut0 | .storeOut1 | .storeRam => true
  | .storeBank0 | .storeBank1 | .storeBank2 | .storeBank3 | .storeBank4 => true
  | .jump _ => true

/-- An instruction line addressed to this machine: bank digit 0 to 4, line digit 0 to 7 (R58). -/
def addressed (b l : Fin 10) : Bool :=
  decide (b.val < Config.nBanks) && decide (l.val < Config.nLines)

/-- A line whose load the spec defines: no near miss of the pattern (`P_LINE_SYNTAX`, R62), and no stored value of 32 or more
(`P_WIDE_WORD`, R60). A line addressed outside the machine is dropped whatever its bits are (R58, R143; log 7). -/
def SourceLine.wellFormed : SourceLine → Bool
  | .instruction b l (some v) => !addressed b l || decide (v < Config.wordValues)
  | .instruction _ _ none => true
  | .nearMiss => false
  | .nonMatching => true

end Sys2Proof
end

