-- ==== Sys2Proof/Decode.lean ====
section
/-! DEFINITION. From bits to instructions and back (spec/30_encoding.md R45 to R54), and from program text to source lines and back
(R55 to R62). Decoding a five-bit word is total and needs no rejection (R47, R51); a number that does not fit a word is rejected
by name. -/

namespace Sys2Proof

/-- `opcode = w >> 3 = w[4:3]` (R47). -/
def opcodeOf (w : Word) : Opcode := w.extractLsb' 3 2

/-- `operand = w & 0b111 = w[2:0]` (R47). -/
def operandOf (w : Word) : Operand := w.extractLsb' 0 3

/-- LOAD (00): operand 0 to 6 an input line, 7 the RAM cell (R49). The three arguments are `w[2]`, `w[1]`, `w[0]`. -/
def decodeLoad : Bool → Bool → Bool → Instr
  | false, false, false => .loadIn0
  | false, false, true  => .loadIn1
  | false, true,  false => .loadIn2
  | false, true,  true  => .loadIn3
  | true,  false, false => .loadIn4
  | true,  false, true  => .loadIn5
  | true,  true,  false => .loadIn6
  | true,  true,  true  => .loadRam

/-- STORE (10): operand 0 and 1 an output latch, 2 to 6 a bank switch, 7 the RAM cell (R49). The three arguments are `w[2]`,
`w[1]`, `w[0]`. -/
def decodeStore : Bool → Bool → Bool → Instr
  | false, false, false => .storeOut0
  | false, false, true  => .storeOut1
  | false, true,  false => .storeBank0
  | false, true,  true  => .storeBank1
  | true,  false, false => .storeBank2
  | true,  false, true  => .storeBank3
  | true,  true,  false => .storeBank4
  | true,  true,  true  => .storeRam

/-- The instruction of a word (R47 to R50): the top two bits choose the opcode, the bottom three the sub-form. -/
def decode (w : Word) : Instr :=
  match w.getLsbD 4, w.getLsbD 3 with
  | false, false => decodeLoad (w.getLsbD 2) (w.getLsbD 1) (w.getLsbD 0)
  | false, true  => .nor (operandOf w)
  | true,  false => decodeStore (w.getLsbD 2) (w.getLsbD 1) (w.getLsbD 0)
  | true,  true  => .jump (operandOf w)

/-- The one way a number fails to be an instruction. -/
inductive DecodeError where
  /-- The value is 32 or more and fits no five-bit word (R60, U4). -/
  | wideWord
deriving DecidableEq, Repr

/-- Decode a number: a value of 32 or more is rejected by name (R60), any other is a word (R47). -/
def decodeNumber (n : Nat) : Except DecodeError Instr :=
  if n < Config.wordValues then .ok (decode (BitVec.ofNat 5 n)) else .error .wideWord

/-- The number that an opcode-table row's bits make: the bits above `nbits` are zero. -/
def tableValue (nbits w : Nat) : Nat := w % 2 ^ nbits

/-- The decoder's answer on the bits of an opcode-table row, bit 0 the least significant. A word is one cell of five bits, stored as
it is (R45, R53); bits above them make the number wide, and it is rejected (log 24). -/
def decodeTableWord (nbits w : Nat) : Option Instr :=
  match decodeNumber (tableValue nbits w) with
  | .ok i => some i
  | .error _ => none

/-- The opcode field of an instruction's word (R48). -/
def Instr.opcode : Instr → Opcode
  | .loadIn0 | .loadIn1 | .loadIn2 | .loadIn3 | .loadIn4 | .loadIn5 | .loadIn6 | .loadRam => 0b00#2
  | .nor _ => 0b01#2
  | .storeOut0 | .storeOut1 | .storeBank0 | .storeBank1 | .storeBank2 | .storeBank3 | .storeBank4 | .storeRam => 0b10#2
  | .jump _ => 0b11#2

/-- The operand field of an instruction's word (R49, R54). -/
def Instr.operand : Instr → Operand
  | .loadIn0 => 0b000#3
  | .loadIn1 => 0b001#3
  | .loadIn2 => 0b010#3
  | .loadIn3 => 0b011#3
  | .loadIn4 => 0b100#3
  | .loadIn5 => 0b101#3
  | .loadIn6 => 0b110#3
  | .loadRam => 0b111#3
  | .nor x => x
  | .storeOut0 => 0b000#3
  | .storeOut1 => 0b001#3
  | .storeBank0 => 0b010#3
  | .storeBank1 => 0b011#3
  | .storeBank2 => 0b100#3
  | .storeBank3 => 0b101#3
  | .storeBank4 => 0b110#3
  | .storeRam => 0b111#3
  | .jump k => k

/-- The word of an instruction, `w = 8*opcode + operand` (R46, R47). -/
def encode (i : Instr) : Word := i.opcode ++ i.operand

/-! ### Program text -/

/-- A decimal digit, ASCII only (R58, U6). -/
def digitOf (c : Char) : Option (Fin 10) :=
  if h : 48 ≤ c.toNat ∧ c.toNat ≤ 57 then some ⟨c.toNat - 48, by omega⟩ else none

/-- A character of a bit string: `0`, `1` or the separator `_` (R56). -/
def isBitChar (c : Char) : Bool := c == '0' || c == '1' || c == '_'

/-- The bit string at the start of a text: it ends at the first character that is not `0`, `1` or `_` (R57). -/
def bitString (t : Text) : Text := t.takeWhile isBitChar

/-- Underscores are stripped before parsing (R56). -/
def stripSeparators (t : Text) : Text := t.filter (fun c => c != '_')

/-- The unsigned value of a string of binary digits, leftmost the most significant (R59). -/
def binaryValue (t : Text) : Nat :=
  t.foldl (fun v c => 2 * v + (if c == '1' then 1 else 0)) 0

/-- The value of the bit string at the start of a text; none where it is empty once stripped (R59, R142). -/
def bitsValue (t : Text) : Option Nat :=
  match stripSeparators (bitString t) with
  | [] => none
  | d :: ds => some (binaryValue (d :: ds))

/-- The head of an instruction line in the exact spelling: `#`, bank digit, line digit, `:`, one space; what follows is the bit
string and the trailing text (R55). -/
def exactHead : Text → Option (Fin 10 × Fin 10 × Text)
  | h :: b :: l :: c :: sp :: rest =>
    if h = '#' ∧ c = ':' ∧ sp = ' ' then
      match digitOf b, digitOf l with
      | some b, some l => some (b, l, rest)
      | _, _ => none
    else none
  | _ => none

/-- The four-character shape `#dd:` stands at the start of the text (R62). -/
def shapeHere : Text → Bool
  | h :: b :: l :: c :: _ => h == '#' && c == ':' && (digitOf b).isSome && (digitOf l).isSome
  | _ => false

/-- The shape `#dd:` occurs somewhere in the text (R62). -/
def hasShape : Text → Bool
  | [] => false
  | c :: cs => shapeHere (c :: cs) || hasShape cs

/-- A further space or a tab after the one space of the exact spelling (D6). -/
def startsBlank : Text → Bool
  | c :: _ => c == ' ' || c == '\t'
  | [] => false

/-- The classification of one line of program text (R62, D6, D17). -/
def scanLine (t : Text) : SourceLine :=
  match exactHead t with
  | some (b, l, rest) => if startsBlank rest then .nearMiss else .instruction b l (bitsValue rest)
  | none => if hasShape t then .nearMiss else .nonMatching

/-- The lines of a text; a line ends at LF, and a CR before it stays in the line (D6). -/
def splitLines : Text → List Text
  | [] => [[]]
  | c :: cs =>
    if c = '\n' then [] :: splitLines cs
    else
      match splitLines cs with
      | [] => [[c]]
      | l :: ls => (c :: l) :: ls

/-- The source lines of a program text, in the order they stand (R140). -/
def scanText (t : Text) : List SourceLine := (splitLines t).map scanLine

/-- A program text whose load the spec defines (R60, R62, R145). -/
def textWellFormed (t : Text) : Bool := (scanText t).all SourceLine.wellFormed

/-- The digit character of a number below ten. -/
def digitChar (n : Nat) : Char := Char.ofNat (48 + n)

/-- The five binary digits of a word, most significant first (R34, R59). -/
def wordBits (w : Word) : Text :=
  [4, 3, 2, 1, 0].map (fun i => if w.getLsbD i then '1' else '0')

/-- The program line, in the exact spelling of R55, that stores a word at an address. -/
def encodeLine (b : Bank) (l : Line) (w : Word) : Text :=
  ['#', digitChar b.val, digitChar l.toNat, ':', ' '] ++ wordBits w

end Sys2Proof
end

