-- ==== Sys2Proof/Machine/State.lean ====
section
/-! DEFINITION. The machine's state (spec/10_state.md R10 to R27), the reasons a call can stop, the state after reset, and the state
at construction. -/

namespace Sys2Proof.Machine

/-- The whole state: the registers, ports and power state of R10, instruction memory (R18), the trace (R23, R126), and one field of
the model's own, the tick number the caller hands to the next `step` (R65, log 14). Every index and width is held by its type, so
the invariants of R19 hold of every value. -/
structure State where
  /-- The accumulator `acc` (R11). -/
  acc : Bit
  /-- The one data cell `ram` (R12). -/
  ram : Bit
  /-- The bank register (R13). -/
  bank : Bank
  /-- The program counter, a line of the current bank (R14). -/
  pc : Line
  /-- The input lines in[0] to in[6], owned by the environment (R15). -/
  ins : Vector Bit 7
  /-- The output latches out[0] and out[1] (R16). -/
  outs : Vector Bit 2
  /-- The power state: true is `POWERED_ON` (R17, R120). -/
  running : Bool
  /-- Instruction memory, 5 banks of 8 words (R18). -/
  imem : IMem
  /-- The trace's full history since the last reset, oldest first (R126). -/
  history : List TraceItem
  /-- The trace's bounded view, newest first (R126). -/
  view : List TraceItem
  /-- The MODEL's own field: the tick argument of the next `step` call, the caller's (R65, R125, log 14). -/
  tickArg : Int
deriving DecidableEq, Repr

/-- There is no fault: "The engine therefore never fails during `step`" (R76, R110; spec/93_implementation_defined.md: no behaviour
of this machine is treated as fault). The type has no constructor, so that no state, instruction or call can end in one. Safe:
nothing the machine does is replaced by a fault (log 28). -/
inductive Fault where
deriving DecidableEq, Repr

/-- Why a call of the environment is outside the model's domain. No instruction of a running machine raises any of them (R76). -/
inductive Refusal where
  /-- An instruction without a meaning in this model, by its mnemonic. Raised by no arm of `exec`: every instruction has its meaning.
  Safe. -/
  | notModelled (mnemonic : String)
  /-- Raised by `power_on` on a program text that stores a bit string of value 32 or more (R60, D5, U4). Safe: no result is claimed
  for such a text. -/
  | wideWord
  /-- Raised by `power_on` on a program text with a line that has the shape `#dd:` in another spelling than R55's (R62, D6, U5). Safe:
  no result is claimed for such a text. -/
  | lineSyntax
  /-- Raised by `export_trace` when an entry's tick is outside 0 to 99999, whose rendering is not stated (R127, D13, U9). Safe: no
  rendering is claimed for such a trace. -/
  | tickRendering
deriving DecidableEq, Repr

/-- The trace that `reset()` leaves: the single sentinel entry, in both containers (R24, R129). -/
def sentinelTrace : List TraceItem := [.sentinel]

/-- The machine at construction, before any `power_on`: off, with registers, instruction memory and trace unspecified and inputs
nobody has set (R25, R120, D4; log 2). -/
def State.construction : State where
  acc := Config.prePower.acc
  ram := Config.prePower.ram
  bank := Config.prePower.bank
  pc := Config.prePower.pc
  ins := Config.inInit
  outs := Config.prePower.outs
  running := false
  imem := Config.prePower.imem
  history := Config.prePower.history
  view := Config.prePower.view
  tickArg := 0

/-- The machine right after reset: the registers 0 and the trace the sentinel (R24, R135), instruction memory as the clear leaves it
with no program text line to fill it (R139), the power state as `power_on` leaves it (R10's table, R121). The inputs are not reset:
they hold what they held, here the free value of lines nobody has set (R15, D3; log 1, log 3). -/
def State.reset : State where
  acc := 0
  ram := 0
  bank := 0
  pc := 0
  ins := Config.inInit
  outs := Vector.replicate 2 0
  running := true
  imem := IMem.zero
  history := sentinelTrace
  view := sentinelTrace
  tickArg := 0

end Sys2Proof.Machine
end

