-- ==== Sys2Proof/Machine/Ops.lean ====
section
/-! DEFINITION. The named operations over instruction memory, the registers and the program counter, and the ALU (spec/20_memory.md,
spec/40_cycle.md section 2, spec/42_nor.md). There is no exception to take and none to return from (R110, R113, R114), so this
machine has no operation for either. -/

namespace Sys2Proof

/-- `imem[b][l]`: one whole word; reading has no other effect (R32, R37). -/
def IMem.read (m : IMem) (b : Bank) (l : Line) : Word := (m[b])[l.toNat]'l.isLt

/-- The loader's store `imem[b][l] <- w`: one cell, every other as it was (R141, R37). -/
def IMem.write (m : IMem) (b : Bank) (l : Line) (w : Word) : IMem :=
  m.set b ((m[b]).set l.toNat w l.isLt)

namespace Machine

/-- `Fetch(bank, pc)`: the word at the current address (R32, R68). -/
def fetchWord (s : State) : Word := s.imem.read s.bank s.pc

/-- Fetch and decode (R68, R69): neither can fail. -/
def fetchInstr (s : State) : Instr := decode (fetchWord s)

/-- A word at the address the next step fetches from, with the power on: a program load from outside the machine, reduced to the one
cell (R121, R141; log 3). No instruction does this (R31). -/
def placeWord (w : Word) (s : State) : State :=
  { s with imem := s.imem.write s.bank s.pc w, running := true }

/-- The advance of every instruction that transfers no control: `(pc + 1) mod 8`, with no carry into `bank` (R72, R78). -/
def advance (s : State) : State := { s with pc := s.pc + 1 }

/-- Control transfer within the current bank (R72, R100). -/
def goTo (k : Line) (s : State) : State := { s with pc := k }

/-- The bank switch: the target bank, line 0 (R72, R92). -/
def switchBank (b : Bank) (s : State) : State := { s with bank := b, pc := 0 }

/-- `acc <- v` (R11). -/
def setAcc (v : Bit) (s : State) : State := { s with acc := v }

/-- `ram <- v` (R12). -/
def setRam (v : Bit) (s : State) : State := { s with ram := v }

/-- `out[j] <- v`, the other latch untouched (R16). -/
def setOut (j : OutputLatch) (v : Bit) (s : State) : State := { s with outs := s.outs.set j v }

/-- The ALU's one gate: `NOR(a, b)` is 1 when both are 0 (R7, R86). -/
def nor (a b : Bit) : Bit := ~~~(a ||| b)

/-- LOAD of a bit: into the accumulator, then the next line (R80, R81). -/
def loadBit (v : Bit) (s : State) : State := advance (setAcc v s)

/-- STORE to an output latch: the accumulator's bit, then the next line (R90, R91). -/
def storeOut (j : OutputLatch) (s : State) : State := advance (setOut j s.acc s)

/-- STORE to the data cell: the accumulator's bit, then the next line (R93). -/
def storeRam (s : State) : State := advance (setRam s.acc s)

end Machine

end Sys2Proof
end

