-- ==== Sys2Proof/Machine/Operands.lean ====
section
/-! DEFINITION. What the operand field selects (spec/30_encoding.md R49): an input line, an output latch, the data cell. The operand
is always a selector or a target, never a datum; the target of a bank switch and of a jump are the constructors' own (R92, R100). -/

namespace Sys2Proof.Machine

/-- `in[k]` as it stands when the step begins (R15, R41). -/
def readInput (k : InputLine) (s : State) : Bit := s.ins[k]

/-- The data cell, which operand 7 selects in LOAD and STORE (R12, R49). -/
def readRam (s : State) : Bit := s.ram

/-- `out[j]`, for the environment's eyes: no instruction reads it (R16, R26). -/
def readOut (j : OutputLatch) (s : State) : Bit := s.outs[j]

end Sys2Proof.Machine
end

