-- ==== Sys2Proof/Machine/Flags.lean ====
section
/-! DEFINITION. There are no status flags and no condition codes (spec/10_state.md R20). The one condition of the machine is JUMP's
test of the accumulator itself (spec/44_jump.md R100). -/

namespace Sys2Proof.Machine

/-- JUMP is taken when `acc` is 0 (R100). -/
def jumpTaken (s : State) : Bool := s.acc == 0

end Sys2Proof.Machine
end

