-- ==== Sys2Proof/Machine/Jump.lean ====
section
/-! DEFINITION. JUMP (opcode 11), spec/44_jump.md: the one conditional instruction. -/

namespace Sys2Proof.Machine

/-- `JUMP k`: line `k` of the current bank when `acc` is 0, the next line otherwise (R100). -/
def execJump (k : Line) (s : State) : Host.Outcome State Fault Refusal :=
  if jumpTaken s then .next (goTo k s) else .next (advance s)

end Sys2Proof.Machine
end

