-- ==== Sys2Proof/Machine/Load.lean ====
section
/-! DEFINITION. LOAD (opcode 00), spec/41_load.md: an input line or the data cell into the accumulator. -/

namespace Sys2Proof.Machine

/-- `LOAD IN_0`: `acc <- in[0]`, then the next line (R80). -/
def execLoadIn0 (s : State) : Host.Outcome State Fault Refusal := .next (loadBit (readInput 0 s) s)

/-- `LOAD IN_1`: `acc <- in[1]`, then the next line (R80). -/
def execLoadIn1 (s : State) : Host.Outcome State Fault Refusal := .next (loadBit (readInput 1 s) s)

/-- `LOAD IN_2`: `acc <- in[2]`, then the next line (R80). -/
def execLoadIn2 (s : State) : Host.Outcome State Fault Refusal := .next (loadBit (readInput 2 s) s)

/-- `LOAD IN_3`: `acc <- in[3]`, then the next line (R80). -/
def execLoadIn3 (s : State) : Host.Outcome State Fault Refusal := .next (loadBit (readInput 3 s) s)

/-- `LOAD IN_4`: `acc <- in[4]`, then the next line (R80). -/
def execLoadIn4 (s : State) : Host.Outcome State Fault Refusal := .next (loadBit (readInput 4 s) s)

/-- `LOAD IN_5`: `acc <- in[5]`, then the next line (R80). -/
def execLoadIn5 (s : State) : Host.Outcome State Fault Refusal := .next (loadBit (readInput 5 s) s)

/-- `LOAD IN_6`: `acc <- in[6]`, then the next line (R80). -/
def execLoadIn6 (s : State) : Host.Outcome State Fault Refusal := .next (loadBit (readInput 6 s) s)

/-- `LOAD RAM`: `acc <- ram`, then the next line (R81). -/
def execLoadRam (s : State) : Host.Outcome State Fault Refusal := .next (loadBit (readRam s) s)

end Sys2Proof.Machine
end

