-- ==== Sys2Proof/Machine/Nor.lean ====
section
/-! DEFINITION. NOR (opcode 01), spec/42_nor.md: the accumulator's complement. The operand bits have no meaning (R85, R86, C6). -/

namespace Sys2Proof.Machine

/-- `NOR`: `acc <- NOR(acc, 0)`, then the next line; the operand is ignored, whatever it holds (R85). -/
def execNor (s : State) : Host.Outcome State Fault Refusal := .next (loadBit (nor s.acc 0) s)

end Sys2Proof.Machine
end

