-- ==== Sys2Proof/Machine/Store.lean ====
section
/-! DEFINITION. STORE (opcode 10), spec/43_store.md: the accumulator to an output latch or the data cell, and the bank switch. -/

namespace Sys2Proof.Machine

/-- `STORE OUT_0`: `out[0] <- acc`, then the next line (R90). -/
def execStoreOut0 (s : State) : Host.Outcome State Fault Refusal := .next (storeOut 0 s)

/-- `STORE OUT_1`: `out[1] <- acc`, then the next line (R91). -/
def execStoreOut1 (s : State) : Host.Outcome State Fault Refusal := .next (storeOut 1 s)

/-- `STORE BANK_0`: bank 0, line 0, whatever the accumulator, bank and line are (R92). -/
def execStoreBank0 (s : State) : Host.Outcome State Fault Refusal := .next (switchBank 0 s)

/-- `STORE BANK_1`: bank 1, line 0, whatever the accumulator, bank and line are (R92). -/
def execStoreBank1 (s : State) : Host.Outcome State Fault Refusal := .next (switchBank 1 s)

/-- `STORE BANK_2`: bank 2, line 0, whatever the accumulator, bank and line are (R92). -/
def execStoreBank2 (s : State) : Host.Outcome State Fault Refusal := .next (switchBank 2 s)

/-- `STORE BANK_3`: bank 3, line 0, whatever the accumulator, bank and line are (R92). -/
def execStoreBank3 (s : State) : Host.Outcome State Fault Refusal := .next (switchBank 3 s)

/-- `STORE BANK_4`: bank 4, line 0, whatever the accumulator, bank and line are (R92). -/
def execStoreBank4 (s : State) : Host.Outcome State Fault Refusal := .next (switchBank 4 s)

/-- `STORE RAM`: `ram <- acc`, then the next line (R93). -/
def execStoreRam (s : State) : Host.Outcome State Fault Refusal := .next (storeRam s)

end Sys2Proof.Machine
end

