-- ==== Sys2Proof/Machine/Dispatch.lean ====
section
/-! DEFINITION. One arm per constructor of Instr, each a direct call of its meaning (spec/40_cycle.md R70). -/

namespace Sys2Proof.Machine

/-- The effect of one instruction, its program counter update included (R70, R73); the step around it appends the trace entry. -/
def exec (i : Instr) (s : State) : Host.Outcome State Fault Refusal :=
  match i with
  | .loadIn0 => Sys2Proof.Machine.execLoadIn0 s
  | .loadIn1 => Sys2Proof.Machine.execLoadIn1 s
  | .loadIn2 => Sys2Proof.Machine.execLoadIn2 s
  | .loadIn3 => Sys2Proof.Machine.execLoadIn3 s
  | .loadIn4 => Sys2Proof.Machine.execLoadIn4 s
  | .loadIn5 => Sys2Proof.Machine.execLoadIn5 s
  | .loadIn6 => Sys2Proof.Machine.execLoadIn6 s
  | .loadRam => Sys2Proof.Machine.execLoadRam s
  | .nor _ => Sys2Proof.Machine.execNor s
  | .storeOut0 => Sys2Proof.Machine.execStoreOut0 s
  | .storeOut1 => Sys2Proof.Machine.execStoreOut1 s
  | .storeBank0 => Sys2Proof.Machine.execStoreBank0 s
  | .storeBank1 => Sys2Proof.Machine.execStoreBank1 s
  | .storeBank2 => Sys2Proof.Machine.execStoreBank2 s
  | .storeBank3 => Sys2Proof.Machine.execStoreBank3 s
  | .storeBank4 => Sys2Proof.Machine.execStoreBank4 s
  | .storeRam => Sys2Proof.Machine.execStoreRam s
  | .jump k => Sys2Proof.Machine.execJump k s

end Sys2Proof.Machine
end

