-- ==== Sys2Proof/Machine/Trace.lean ====
section
/-! DEFINITION. The trace, an observer of the core (spec/60_exceptions.md section 3, R125 to R130): what an executed step records, how
an entry is appended, and how the full history is rendered. No instruction reads it (R23). -/

namespace Sys2Proof.Machine

/-- What an instruction does in a state, as data (R75): the value it moves, the bank it selects, whether it jumps. -/
def effectOf (i : Instr) (s : State) : Effect :=
  match i with
  | .loadIn0 => .loadIn 0 (readInput 0 s)
  | .loadIn1 => .loadIn 1 (readInput 1 s)
  | .loadIn2 => .loadIn 2 (readInput 2 s)
  | .loadIn3 => .loadIn 3 (readInput 3 s)
  | .loadIn4 => .loadIn 4 (readInput 4 s)
  | .loadIn5 => .loadIn 5 (readInput 5 s)
  | .loadIn6 => .loadIn 6 (readInput 6 s)
  | .loadRam => .loadRam (readRam s)
  | .nor _ => .nor (nor s.acc 0)
  | .storeOut0 => .storeOut 0 s.acc
  | .storeOut1 => .storeOut 1 s.acc
  | .storeBank0 => .storeBank 0
  | .storeBank1 => .storeBank 1
  | .storeBank2 => .storeBank 2
  | .storeBank3 => .storeBank 3
  | .storeBank4 => .storeBank 4
  | .storeRam => .storeRam s.acc
  | .jump k => .jump k (jumpTaken s)

/-- The entry of the step that starts in this state: the caller's tick, `exec_bank`, `exec_line`, the decoded fields and the effect
(R67, R75, R125). -/
def entryOf (s : State) : TraceEntry where
  tick := s.tickArg
  bank := s.bank
  line := s.pc
  opcode := opcodeOf (fetchWord s)
  operand := operandOf (fetchWord s)
  effect := effectOf (fetchInstr s) s

/-- "push to the front of the bounded view; if the bounded view exceeds 20 entries, drop the oldest (tail) entry" (R126). -/
def pushView (it : TraceItem) (v : List TraceItem) : List TraceItem :=
  if Config.traceView < (it :: v).length then (it :: v).dropLast else it :: v

/-- `append(entry)`: to the full history and to the bounded view (R126). -/
def record (e : TraceEntry) (s : State) : State :=
  { s with history := s.history ++ [.entry e], view := pushView (.entry e) s.view }

/-! ### Rendering -/

/-- The bytes of an ASCII text. -/
def asciiBytes (t : Text) : List Byte := t.map (fun c => BitVec.ofNat 8 c.toNat)

/-- A tick below 100000, "zero-padded to 5 digits" (R127). -/
def padTick (n : Nat) : Text :=
  [n / 10000 % 10, n / 1000 % 10, n / 100 % 10, n / 10 % 10, n % 10].map digitChar

/-- The one effect description the spec gives: LOAD IN_0 that reads 1 (R128). -/
def loadIn0Text : Text := "LOAD IN_0 -> ACC:1".toList

/-- The effect description of an entry: the stated text for the stated case, a free value for every other (R128, D16; log 15). -/
def renderEffect (e : TraceEntry) : List Byte :=
  if e.effect = .loadIn 0 1 then asciiBytes loadIn0Text else Config.effectText e

/-- `[Tick NNNNN] B<bank> L<line>: <effect description>` (R127, C1); other ticks than 0 to 99999 are refused (D13). -/
def renderEntry (e : TraceEntry) : Except Refusal (List Byte) :=
  if 0 ≤ e.tick ∧ e.tick < Config.tickBound then
    .ok (asciiBytes ("[Tick ".toList ++ padTick e.tick.toNat ++ "] B".toList ++ [digitChar e.bank.val] ++ " L".toList
      ++ [digitChar e.line.toNat] ++ ": ".toList) ++ renderEffect e)
  else .error .tickRendering

/-- The rendering of one trace item; the sentinel's is a free value (R129, N17; log 15). -/
def renderItem : TraceItem → Except Refusal (List Byte)
  | .sentinel => .ok Config.sentinelText
  | .entry e => renderEntry e

/-- The byte that ends a line of the log, LF (R130; log 29). -/
def newline : Byte := 10

/-- "concatenation of every full-history entry's rendering, one per line, terminated by a trailing newline" (R130). For an EMPTY full
history the spec does not say whether the export is no bytes or one newline: DESIGN CHOICE, no bytes, unsafe (log 30). Only a history
from before the first `power_on` can be empty, since reset leaves the sentinel (R129). -/
def renderHistory : List TraceItem → Except Refusal (List Byte)
  | [] => .ok []
  | it :: rest =>
    match renderItem it, renderHistory rest with
    | .ok a, .ok b => .ok (a ++ newline :: b)
    | .error r, _ => .error r
    | .ok _, .error r => .error r

end Sys2Proof.Machine
end

