-- ==== Sys2Proof/Machine/Step.lean ====
section
/-! DEFINITION. The step (spec/40_cycle.md R65): power check, fetch, decode, execute and advance, trace entry; and the placing of a
word where the next step fetches. -/

namespace Sys2Proof.Machine

/-- One `step` call. Off, it does nothing (R66, R123): the call completes and returns the powered-off signal, which `hostCall` gives
back (log 13). On, the instruction fetched at (`bank`, `pc`) has its effect, and the step's entry is appended to the trace (R65,
R68 to R75). -/
def step (s : State) : Host.Outcome State Fault Refusal :=
  if s.running then
    match exec (fetchInstr s) s with
    | .next t => .next (record (entryOf s) t)
    | .fault r => .fault r
    | .refused r => .refused r
  else .next s

/-- The state with a table row's word at the address the next step fetches from, and the power on. A number that fits no word (R60)
can stand in no cell, and places nothing. -/
def State.withFetchWord (s : State) (nbits w : Nat) : State :=
  if tableValue nbits w < Config.wordValues then placeWord (BitVec.ofNat 5 (tableValue nbits w)) s else s

end Sys2Proof.Machine
end

