-- ==== Sys2Proof/Machine/Loader.lean ====
section
/-! DEFINITION. The loader, a function from program text to instruction memory (spec/70_reset_and_hazards.md R139 to R145), and the
program text of an instruction memory. -/

namespace Sys2Proof.Machine

/-- One source line: an instruction line addressed to this machine stores its word; one with an empty bit string, one addressed
outside the machine and one that matches nothing leave memory alone; a value of 32 or more and a near miss of the pattern are
refused (R141 to R143, R60, R62). -/
def loadLine : SourceLine → IMem → Except Refusal IMem
  | .instruction b l v, m =>
    if h : b.val < 5 ∧ l.val < 8 then
      match v with
      | none => .ok m
      | some v =>
        if v < Config.wordValues then .ok (m.write ⟨b.val, h.1⟩ (BitVec.ofNat 3 l.val) (BitVec.ofNat 5 v))
        else .error .wideWord
    else .ok m
  | .nearMiss, _ => .error .lineSyntax
  | .nonMatching, m => .ok m

/-- The lines in the order they stand, so that of two lines for one address the later wins (R140, R141). -/
def loadLines : List SourceLine → IMem → Except Refusal IMem
  | [], m => .ok m
  | ln :: rest, m =>
    match loadLine ln m with
    | .ok m' => loadLines rest m'
    | .error r => .error r

/-- `load(text)`: clear all 40 cells, then the lines (R139, R145). -/
def load (t : Text) : Except Refusal IMem := loadLines (scanText t) IMem.zero

/-- A line whose bit string is not valid binary: it is skipped and a diagnostic is emitted (R142). -/
def diagnosed : SourceLine → Bool
  | .instruction b l none => addressed b l
  | _ => false

/-- How many diagnostics a load emits; their text and channel are not given (R142, N22; log 10). -/
def diagnosticCount (t : Text) : Nat := (scanText t).countP diagnosed

/-- The banks in order. -/
def banks : List Bank := [0, 1, 2, 3, 4]

/-- The lines of a bank in order. -/
def bankLines : List Line := [0, 1, 2, 3, 4, 5, 6, 7]

/-- The program text of an instruction memory: 40 lines in the exact spelling of R55, one for each cell. -/
def encodeProgram (m : IMem) : Text :=
  banks.flatMap fun b => bankLines.flatMap fun l => encodeLine b l (m.read b l) ++ ['\n']

end Sys2Proof.Machine
end

