-- ==== Sys2Proof/Machine/Power.lean ====
section
/-! DEFINITION. Reset, the two power transitions, the input lines and the snapshot (spec/60_exceptions.md section 2,
spec/70_reset_and_hazards.md section 1). -/

namespace Sys2Proof.Machine

/-- `reset()`: every register of the CPU state but the inputs becomes 0, the trace the single sentinel entry; instruction memory
and the power state are not registers and stay (R24, R135, R17; log 27). -/
def resetRegs (s : State) : State :=
  { s with acc := 0, ram := 0, bank := 0, pc := 0, outs := Vector.replicate 2 0, history := sentinelTrace, view := sentinelTrace }

/-- The loaded program becomes the instruction memory, all of it (R18, R139). -/
def setImem (m : IMem) (s : State) : State := { s with imem := m }

/-- `running <- v` (R17). -/
def setRunning (v : Bool) (s : State) : State := { s with running := v }

/-- `power_on(program_text)`: when off, reset, load, on, as one event (R121, R138); when on, no effect (D7; log 11). A text that is not
well-formed is refused (R60, R62, D5, D6). -/
def powerOn (t : Text) (s : State) : Host.Outcome State Fault Refusal :=
  if s.running then .next s
  else
    match load t with
    | .ok m => .next (setRunning true (setImem m (resetRegs s)))
    | .error r => .refused r

/-- `power_off()`: the registers keep their values (R122). -/
def powerOff (s : State) : State := setRunning false s

/-- `set_input(i, v)`: that line and nothing else, at any time, on or off (R124). An index outside 0 to 6 cannot be written (D8). -/
def setInput (i : InputLine) (v : Bit) (s : State) : State := { s with ins := s.ins.set i v }

/-- The caller's tick number for the next `step` (R65, R125; log 14). -/
def setTick (n : Int) (s : State) : State := { s with tickArg := n }

/-- What `snapshot()` shows: no instruction memory and no trace (R26, R131). -/
structure Snapshot where
  accumulator : Bit
  ram : Bit
  currentBank : Bank
  programCounter : Line
  outputs : Vector Bit 2
  inputs : Vector Bit 7
  running : Bool
deriving DecidableEq, Repr

/-- `snapshot()`: a copy of the registers between two events (R131, D18). -/
def snapshot (s : State) : Snapshot where
  accumulator := s.acc
  ram := s.ram
  currentBank := s.bank
  programCounter := s.pc
  outputs := s.outs
  inputs := s.ins
  running := s.running

end Sys2Proof.Machine
end

