-- ==== Sys2Proof/Machine/HostCalls.lean ====
section
/-! DEFINITION. The environment's six calls (spec/60_exceptions.md R132), each an event of its own between two steps, and a run of such
events in sequence (R112). -/

namespace Sys2Proof.Machine

/-- The calls of the runtime interface (R132). Indices and bits are typed, so no call outside the interface can be written (D8). -/
inductive HostCall where
  | powerOn (text : Text)
  | powerOff
  | setInput (i : InputLine) (v : Bit)
  | step (tick : Int)
  | snapshot
  | exportTrace
deriving DecidableEq, Repr

/-- What a call gives back (R132's last column). -/
inductive HostReply where
  | nothing
  | traceEntry (e : TraceEntry)
  /-- The powered-off signal, which carries nothing (R66, R123, D16, U11). -/
  | poweredOffSignal
  | snapshot (x : Snapshot)
  | bytes (b : List Byte)
deriving DecidableEq, Repr

/-- A call's reply beside the outcome of the state. -/
def withReply (r : HostReply) : Host.Outcome State Fault Refusal → Host.Outcome (State × HostReply) Fault Refusal
  | .next s => .next (s, r)
  | .fault f => .fault f
  | .refused f => .refused f

/-- `step(tick)`: on, one step with the caller's tick, which gives its trace entry back; off, the powered-off signal, and the tick is
not recorded (R65, R66, R123). -/
def stepCall (n : Int) (s : State) : Host.Outcome (State × HostReply) Fault Refusal :=
  if s.running then withReply (.traceEntry (entryOf (setTick n s))) (step (setTick n s))
  else .next (s, .poweredOffSignal)

/-- `export_trace()`: the rendering of the full history, which changes no state (R130). -/
def exportTrace (s : State) : Host.Outcome (State × HostReply) Fault Refusal :=
  match renderHistory s.history with
  | .ok b => .next (s, .bytes b)
  | .error r => .refused r

/-- One call of the environment: what it changes and what it gives back (R132). -/
def hostCall (c : HostCall) (s : State) : Host.Outcome (State × HostReply) Fault Refusal :=
  match c with
  | .powerOn t => withReply .nothing (powerOn t s)
  | .powerOff => .next (powerOff s, .nothing)
  | .setInput i v => .next (setInput i v s, .nothing)
  | .step n => stepCall n s
  | .snapshot => .next (s, .snapshot (snapshot s))
  | .exportTrace => exportTrace s

/-- A sequence of calls, one after another (R112): the state they leave. -/
def runCalls : List HostCall → State → Host.Outcome State Fault Refusal
  | [], s => .next s
  | c :: cs, s =>
    match hostCall c s with
    | .next (t, _) => runCalls cs t
    | .fault r => .fault r
    | .refused r => .refused r

end Sys2Proof.Machine
end

