-- ==== Sys2Proof/Safety.lean ====
section
/-! DEFINITION. The terms the claims use: what an instruction leaves alone, the next fetch address of spec/40_cycle.md R73 and the two-stage
program counter update of R71, well-kept traces, and machines that agree but for what no program can read. -/

namespace Sys2Proof.Machine

/-! ### Frames -/

/-- Every word of instruction memory reads as before. -/
def SameImem (s t : State) : Prop := ∀ b l, t.imem.read b l = s.imem.read b l

/-- Every input line reads as before. -/
def SameInputs (s t : State) : Prop := ∀ k, readInput k t = readInput k s

/-- Both output latches read as before. -/
def SameOutputs (s t : State) : Prop := ∀ j, readOut j t = readOut j s

/-- Power state, trace and the caller's tick number are as before. -/
def SameObservers (s t : State) : Prop :=
  t.running = s.running ∧ t.history = s.history ∧ t.view = s.view ∧ t.tickArg = s.tickArg

/-- What no instruction writes (R27): the input lines, instruction memory, the power state; and what the step, not the instruction,
writes: the trace. -/
def SameSurroundings (s t : State) : Prop := SameInputs s t ∧ SameImem s t ∧ SameObservers s t

/-- The advance to the next line of the same bank, wrapping from 7 to 0 (R72, R78). -/
def NextLine (s t : State) : Prop := t.pc.toNat = (s.pc.toNat + 1) % 8 ∧ t.bank = s.bank

/-- The instruction completes in every state: `v` goes to the accumulator, the program counter to the next line, and everything else
stays. -/
def LoadsBit (i : Instr) (v : State → Bit) : Prop :=
  ∀ s, ∃ t, exec i s = .next t ∧ t.acc = v s ∧ NextLine s t ∧
    t.ram = s.ram ∧ SameOutputs s t ∧ SameSurroundings s t

/-- The instruction completes in every state: the accumulator goes to latch `j`, the program counter to the next line, and everything
else stays, the other latch among it. -/
def StoresToLatch (i : Instr) (j : OutputLatch) : Prop :=
  ∀ s, ∃ t, exec i s = .next t ∧ readOut j t = s.acc ∧ NextLine s t ∧
    (∀ j', j' ≠ j → readOut j' t = readOut j' s) ∧ t.acc = s.acc ∧ t.ram = s.ram ∧ SameSurroundings s t

/-- The instruction completes in every state: bank `b`, line 0, and everything else stays. -/
def SwitchesToBank (i : Instr) (b : Nat) : Prop :=
  ∀ s, ∃ t, exec i s = .next t ∧ t.bank.val = b ∧ t.pc = 0 ∧
    t.acc = s.acc ∧ t.ram = s.ram ∧ SameOutputs s t ∧ SameSurroundings s t

/-! ### The program counter -/

/-- The opcode and operand of a word, as numbers (R47). -/
def opcodeNat (w : Word) : Nat := w.toNat / 8

/-- See `opcodeNat`. -/
def operandNat (w : Word) : Nat := w.toNat % 8

/-- The word is a bank switch: STORE with operand 2 to 6 (R92). -/
def isBankSwitch (w : Word) : Prop := opcodeNat w = 2 ∧ 2 ≤ operandNat w ∧ operandNat w ≤ 6

/-- The (bank, line) the step after this one fetches from, read off the fetched word's fields and the accumulator (R73). -/
def NextAddress (s t : State) : Prop :=
  let w := s.imem.read s.bank s.pc
  (isBankSwitch w → t.bank.val = operandNat w - 2 ∧ t.pc.toNat = 0) ∧
  (opcodeNat w = 3 ∧ s.acc = 0 → t.bank = s.bank ∧ t.pc.toNat = operandNat w) ∧
  (¬ isBankSwitch w ∧ ¬ (opcodeNat w = 3 ∧ s.acc = 0) → t.bank = s.bank ∧ t.pc.toNat = (s.pc.toNat + 1) % 8)

/-- The value the source's execute action leaves in the program counter before the universal increment: −1 for a bank switch,
`operand - 1` for a taken JUMP, the old value otherwise (R71). It is an integer: the −1 fits no line. -/
def presetPc (i : Instr) (s : State) : Int :=
  match i with
  | .storeBank0 | .storeBank1 | .storeBank2 | .storeBank3 | .storeBank4 => -1
  | .jump k => if s.acc = 0 then (k.toNat : Int) - 1 else s.pc.toNat
  | .loadIn0 | .loadIn1 | .loadIn2 | .loadIn3 | .loadIn4 | .loadIn5 | .loadIn6 | .loadRam | .nor _
  | .storeOut0 | .storeOut1 | .storeRam => s.pc.toNat

/-- The program counter after the universal increment, `(program_counter + 1) mod 8` (R71). -/
def twoStagePc (i : Instr) (s : State) : Int := (presetPc i s + 1) % 8

/-- The preset value as a three-bit register would hold it: 7 for the −1 (R72). -/
def presetLine (i : Instr) (s : State) : Line :=
  match i with
  | .storeBank0 | .storeBank1 | .storeBank2 | .storeBank3 | .storeBank4 => 7
  | .jump k => if s.acc = 0 then k - 1 else s.pc
  | .loadIn0 | .loadIn1 | .loadIn2 | .loadIn3 | .loadIn4 | .loadIn5 | .loadIn6 | .loadRam | .nor _
  | .storeOut0 | .storeOut1 | .storeRam => s.pc

/-- The net effect of R72: 0 for a bank switch, the operand for a taken JUMP, the next line modulo 8 in every other case. -/
def netPc (i : Instr) (s : State) : Nat :=
  match i with
  | .storeBank0 | .storeBank1 | .storeBank2 | .storeBank3 | .storeBank4 => 0
  | .jump k => if s.acc = 0 then k.toNat else (s.pc.toNat + 1) % 8
  | .loadIn0 | .loadIn1 | .loadIn2 | .loadIn3 | .loadIn4 | .loadIn5 | .loadIn6 | .loadRam | .nor _
  | .storeOut0 | .storeOut1 | .storeRam => (s.pc.toNat + 1) % 8

/-! ### Runs -/

/-- A step is safe when it answers a next state: the machine has no other outcome (R76). -/
def SafeStep (s : State) : Prop := ∃ t, step s = .next t

/-- The two states agree on everything an instruction can read, and on the power state; they may differ in the output latches, the
trace and the caller's tick number, which no program can read (R16, R23, R26). -/
def SameCore (s t : State) : Prop :=
  t.acc = s.acc ∧ t.ram = s.ram ∧ t.bank = s.bank ∧ t.pc = s.pc ∧ t.ins = s.ins ∧ t.imem = s.imem ∧ t.running = s.running

/-- All of the machine but its trace is as before. -/
def SameMachine (s t : State) : Prop := SameCore s t ∧ t.outs = s.outs ∧ t.tickArg = s.tickArg

/-- No word of the bank is a JUMP or a bank switch. -/
def NoTransfer (m : IMem) (b : Bank) : Prop :=
  ∀ l, opcodeNat (m.read b l) ≠ 3 ∧ ¬ isBankSwitch (m.read b l)

/-! ### The trace -/

/-- The bounded view holds the latest 20 items of the full history, newest first (R126), and the full history is the sentinel of the
last reset followed by entries of executed steps (R129). -/
def TraceKept (s : State) : Prop :=
  s.view = s.history.reverse.take 20 ∧ ∃ es : List TraceEntry, s.history = .sentinel :: es.map .entry

/-- The registers that instructions write. -/
structure Regs where
  acc : Bit
  ram : Bit
  bank : Bank
  pc : Line
  outs : Vector Bit 2
deriving DecidableEq, Repr

/-- The registers of a state. -/
def regsOf (s : State) : Regs := ⟨s.acc, s.ram, s.bank, s.pc, s.outs⟩

/-- The registers after reset (R24). -/
def Regs.zero : Regs := ⟨0, 0, 0, 0, Vector.replicate 2 0⟩

/-- One trace item played on the registers: an entry says what its step wrote and where it went; the sentinel is a reset. -/
def playItem (r : Regs) : TraceItem → Regs
  | .sentinel => Regs.zero
  | .entry e =>
    match e.effect with
    | .loadIn _ v | .loadRam v | .nor v => { r with acc := v, pc := e.line + 1 }
    | .storeOut j v => { r with outs := r.outs.set j v, pc := e.line + 1 }
    | .storeBank b => { r with bank := b, pc := 0 }
    | .storeRam v => { r with ram := v, pc := e.line + 1 }
    | .jump k taken => { r with pc := if taken then k else e.line + 1 }

/-- The full history, played from its first item, gives the registers as they stand: the trace misses no write. -/
def TraceExplains (s : State) : Prop := s.history.foldl playItem Regs.zero = regsOf s

/-! ### Calls of the environment -/

/-- The call executes an instruction whose word has the property. -/
def Executes (c : HostCall) (s : State) (p : Word → Prop) : Prop :=
  s.running = true ∧ (∃ n, c = .step n) ∧ p (s.imem.read s.bank s.pc)

/-- The call is a `power_on` that acts: reset, load, on (R121, R136). -/
def Resets (c : HostCall) (s : State) : Prop := s.running = false ∧ ∃ t, c = .powerOn t

/-- The bytes of one trace item in the log, where its rendering is stated. -/
def itemBytes (it : TraceItem) : List Byte :=
  match renderItem it with
  | .ok b => b
  | .error _ => []

/-- The item's tick has a stated rendering; the sentinel has no tick (R127, D13). -/
def tickRendered : TraceItem → Prop
  | .sentinel => True
  | .entry e => 0 ≤ e.tick ∧ e.tick < 100000

/-- A source line that stores a word at the address. -/
def storesAt (b : Bank) (l : Line) : SourceLine → Prop
  | .instruction bd ld (some _) => bd.val = b.val ∧ ld.val = l.toNat
  | _ => False

/-- A source line that stores nothing: addressed outside the machine, an empty bit string, or no match (R142, R143). -/
def storesNothing : SourceLine → Prop
  | .instruction bd ld v => addressed bd ld = false ∨ v = none
  | .nonMatching => True
  | .nearMiss => False

end Sys2Proof.Machine
end

