-- ==== Sys2Proof/Certificates/Slice0/Obligations.lean ====
section
/-! DEFINITION. The statements for the provers: what the numbered rules of spec/ say that an instruction, a step or a call of the
environment does. -/

open Sys2Proof Sys2Proof.Machine

/-! ### Encoding -/

/-- R47: the decoded fields are `word >> 3` and `word & 0b111`, and the word is `8*opcode + operand`. -/
def Obligations.DecodeSplitsWord : Prop :=
  ∀ w : Word, (decode w).opcode.toNat = w.toNat >>> 3 ∧ (decode w).operand.toNat = w.toNat &&& 7 ∧
    w.toNat = 8 * (decode w).opcode.toNat + (decode w).operand.toNat

/-- Every instruction is read back from its word, and every word is the word of the instruction it decodes to (R47, R50). -/
def Obligations.DecodeEncodeAgree : Prop :=
  (∀ i : Instr, decode (encode i) = i) ∧ ∀ w : Word, encode (decode w) = w

/-- The decode vectors V1 to V8 of spec/95_test_vectors.md. -/
def Obligations.VectorWordsDecode : Prop :=
  decode 0b00000#5 = .loadIn0 ∧ decode 0b00110#5 = .loadIn6 ∧ decode 0b00111#5 = .loadRam ∧ decode 0b01101#5 = .nor 5 ∧
    decode 0b10001#5 = .storeOut1 ∧ decode 0b10110#5 = .storeBank4 ∧ decode 0b10111#5 = .storeRam ∧ decode 0b11111#5 = .jump 7

/-- A table row's word, placed where the next step fetches, is fetched as the instruction the decoder reads from it; a number of 32 or
more is none (R45, R60; the model's layout of a row's bits, log 24). -/
def Obligations.PlacedWordIsFetched : Prop :=
  (∀ (s : State) (nbits w : Nat) (i : Instr), decodeTableWord nbits w = some i →
    fetchInstr (s.withFetchWord nbits w) = i ∧ (s.withFetchWord nbits w).running = true ∧
    ∀ b l, (b, l) ≠ (s.bank, s.pc) → (s.withFetchWord nbits w).imem.read b l = s.imem.read b l) ∧
  ∀ nbits w, 32 ≤ w % 2 ^ nbits → decodeTableWord nbits w = none

/-! ### Instructions -/

/-- R80: LOAD IN_k, k = 0 to 6, with its words. -/
def Obligations.LoadInputLine : Prop :=
  (decode 0b00000#5 = .loadIn0 ∧ LoadsBit .loadIn0 (fun s => s.ins[0])) ∧
  (decode 0b00001#5 = .loadIn1 ∧ LoadsBit .loadIn1 (fun s => s.ins[1])) ∧
  (decode 0b00010#5 = .loadIn2 ∧ LoadsBit .loadIn2 (fun s => s.ins[2])) ∧
  (decode 0b00011#5 = .loadIn3 ∧ LoadsBit .loadIn3 (fun s => s.ins[3])) ∧
  (decode 0b00100#5 = .loadIn4 ∧ LoadsBit .loadIn4 (fun s => s.ins[4])) ∧
  (decode 0b00101#5 = .loadIn5 ∧ LoadsBit .loadIn5 (fun s => s.ins[5])) ∧
  (decode 0b00110#5 = .loadIn6 ∧ LoadsBit .loadIn6 (fun s => s.ins[6]))

/-- R81: LOAD RAM, with its word. -/
def Obligations.LoadRamCell : Prop :=
  decode 0b00111#5 = .loadRam ∧ LoadsBit .loadRam (fun s => s.ram)

/-- R85: NOR complements the accumulator whatever its operand, for the eight words `01xxx`; two in a row restore it; straight after a
reset it gives 1. -/
def Obligations.NorComplements : Prop :=
  (∀ x : Operand, decode (0b01#2 ++ x) = .nor x ∧
    LoadsBit (.nor x) (fun s => 1 - s.acc) ∧ LoadsBit (.nor x) (fun s => nor s.acc 0)) ∧
  (∀ (x y : Operand) (s : State), ∃ t u, exec (.nor x) s = .next t ∧ exec (.nor y) t = .next u ∧ u.acc = s.acc) ∧
  ∀ (x : Operand) (s : State), ∃ t, exec (.nor x) (resetRegs s) = .next t ∧ t.acc = 1

/-- R90: STORE OUT_0, with its word. -/
def Obligations.StoreOutputLatch0 : Prop :=
  decode 0b10000#5 = .storeOut0 ∧ StoresToLatch .storeOut0 0

/-- R91: STORE OUT_1, with its word. -/
def Obligations.StoreOutputLatch1 : Prop :=
  decode 0b10001#5 = .storeOut1 ∧ StoresToLatch .storeOut1 1

/-- R92: STORE BANK_b, b = 0 to 4, with its words: bank `operand - 2`, line 0, from any line and any bank, whatever the accumulator. -/
def Obligations.StoreBankSwitch : Prop :=
  (decode 0b10010#5 = .storeBank0 ∧ SwitchesToBank .storeBank0 0) ∧
  (decode 0b10011#5 = .storeBank1 ∧ SwitchesToBank .storeBank1 1) ∧
  (decode 0b10100#5 = .storeBank2 ∧ SwitchesToBank .storeBank2 2) ∧
  (decode 0b10101#5 = .storeBank3 ∧ SwitchesToBank .storeBank3 3) ∧
  (decode 0b10110#5 = .storeBank4 ∧ SwitchesToBank .storeBank4 4)

/-- R93: STORE RAM, with its word. -/
def Obligations.StoreRamCell : Prop :=
  decode 0b10111#5 = .storeRam ∧
  ∀ s, ∃ t, exec .storeRam s = .next t ∧ t.ram = s.acc ∧ NextLine s t ∧
    t.acc = s.acc ∧ SameOutputs s t ∧ SameSurroundings s t

/-- R100: JUMP k, with its words: line `k` of the same bank when the accumulator is 0, the next line when it is 1. -/
def Obligations.JumpOnZero : Prop :=
  ∀ k : Line, decode (0b11#2 ++ k) = .jump k ∧
  ∀ s, ∃ t, exec (.jump k) s = .next t ∧ t.bank = s.bank ∧
    (s.acc = 0 → t.pc = k) ∧ (s.acc = 1 → t.pc.toNat = (s.pc.toNat + 1) % 8) ∧
    t.acc = s.acc ∧ t.ram = s.ram ∧ SameOutputs s t ∧ SameSurroundings s t

/-! ### The step -/

/-- When the word at (`bank`, `pc`) decodes to an instruction, the step of a running machine is that instruction's effect, with the
step's entry appended to the trace and nothing else (R65, R68 to R70, R75). -/
def Obligations.StepRunsDecodedInstruction : Prop :=
  ∀ (s : State) (i : Instr), s.running = true → decode (s.imem.read s.bank s.pc) = i →
    i.wellFormed = true ∧ ∃ t u, exec i s = .next t ∧ step s = .next u ∧
      u.history = s.history ++ [.entry (entryOf s)] ∧ u.view = pushView (.entry (entryOf s)) s.view ∧
      u.acc = t.acc ∧ u.ram = t.ram ∧ u.bank = t.bank ∧ u.pc = t.pc ∧ u.ins = t.ins ∧ u.outs = t.outs ∧
      u.running = t.running ∧ u.imem = t.imem ∧ u.tickArg = t.tickArg

/-- An executed step appends exactly one entry, which holds the caller's tick, the address the instruction was fetched from, whatever
it then does to `bank` and `pc`, and the fields of the fetched word (R67, R75, R125). -/
def Obligations.StepEntryReportsFetchAddress : Prop :=
  ∀ s : State, s.running = true → ∃ t e, step s = .next t ∧ t.history = s.history ++ [.entry e] ∧
    e.tick = s.tickArg ∧ e.bank = s.bank ∧ e.line = s.pc ∧
    e.opcode.toNat = (s.imem.read s.bank s.pc).toNat / 8 ∧ e.operand.toNat = (s.imem.read s.bank s.pc).toNat % 8

/-- R73: the next fetch address for every word, read off the word's fields. -/
def Obligations.NextFetchAddress : Prop :=
  ∀ s : State, s.running = true → ∃ t, step s = .next t ∧ NextAddress s t

/-- R71 and R72: the source's two-stage update of the program counter, its preset read as an integer or as three bits, and its net
effect give the same line after every instruction, the one the instruction leaves. That the two agree is the spec's own derivation
from R71 by arithmetic modulo 8 (decision D15), and the net form in the meanings is the model's, log 17 (DEDUCED). -/
def Obligations.TwoStageAdvanceAgrees : Prop :=
  ∀ (i : Instr) (s : State), ∃ t, exec i s = .next t ∧
    (t.pc.toNat : Int) = twoStagePc i s ∧ t.pc = presetLine i s + 1 ∧ t.pc.toNat = netPc i s

/-- R76: a step always completes; after n steps of a running machine it is running and n entries have been appended: it never halts
of itself (R79). -/
def Obligations.RunNeverHalts : Prop :=
  ∀ (n : Nat) (s : State), s.running = true →
    ∃ t, core.run n s = .next t ∧ SafeStep t ∧ t.running = true ∧ t.history.length = s.history.length + n

/-- R66 and R123: a `step` while off returns the powered-off signal and mutates nothing, the trace among it. -/
def Obligations.StepWhileOffChangesNothing : Prop :=
  ∀ s : State, s.running = false → step s = .next s ∧ ∀ n, hostCall (.step n) s = .next (s, .poweredOffSignal)

/-- No step, and no run of steps, writes an input line, instruction memory or the power state (R15, R17, R31). -/
def Obligations.RunKeepsProgramInputsPower : Prop :=
  ∀ (n : Nat) (s t : State), core.run n s = .next t →
    (∀ b l, t.imem.read b l = s.imem.read b l) ∧ (∀ k, readInput k t = readInput k s) ∧ t.running = s.running

/-- R78's endless loop: in a bank with no JUMP and no bank switch the machine stays in the bank, line after line modulo 8. -/
def Obligations.BankWithoutTransfersLoops : Prop :=
  ∀ (n : Nat) (s : State), s.running = true → NoTransfer s.imem s.bank →
    ∃ t, core.run n s = .next t ∧ t.bank = s.bank ∧ t.pc.toNat = (s.pc.toNat + n) % 8

/-- R79: STORE BANK_b at line 0 of bank b, and JUMP l at line l while the accumulator is 0, leave the whole machine as it was for any
number of steps. -/
def Obligations.FixedPointsRepeatForEver : Prop :=
  (∀ (n : Nat) (s : State), s.running = true → s.pc = 0 → (s.imem.read s.bank s.pc).toNat = 18 + s.bank.val →
    ∃ t, core.run n s = .next t ∧ SameMachine s t) ∧
  (∀ (n : Nat) (s : State), s.running = true → s.acc = 0 → (s.imem.read s.bank s.pc).toNat = 24 + s.pc.toNat →
    ∃ t, core.run n s = .next t ∧ SameMachine s t)

/-- What no program can read has no influence: machines that agree but for outputs, trace and tick still agree after any number of
steps (R16, R23, R26). -/
def Obligations.OutputsAndTraceHaveNoInfluence : Prop :=
  ∀ (n : Nat) (s s' : State), SameCore s s' →
    ∃ t t', core.run n s = .next t ∧ core.run n s' = .next t' ∧ SameCore t t'

/-- An input line that the fetched instruction does not load has no influence on the step: setting it before or after is the same
(R70, R80). -/
def Obligations.UnreadInputHasNoInfluence : Prop :=
  ∀ (s t : State) (k : InputLine) (v : Bit), s.running = true → (s.imem.read s.bank s.pc).toNat ≠ k.val →
    step s = .next t → step (setInput k v s) = .next (setInput k v t)

/-! ### Reset and the calls of the environment -/

/-- R135: `reset()` makes every register 0, leaves the inputs, and replaces the trace by the one sentinel entry; it leaves instruction
memory (R24). -/
def Obligations.ResetZeroesRegisters : Prop :=
  ∀ s : State, (resetRegs s).acc = 0 ∧ (resetRegs s).ram = 0 ∧ (resetRegs s).bank = 0 ∧ (resetRegs s).pc = 0 ∧
    (∀ j, readOut j (resetRegs s) = 0) ∧ (∀ k, readInput k (resetRegs s) = readInput k s) ∧
    (∀ b l, (resetRegs s).imem.read b l = s.imem.read b l) ∧
    (resetRegs s).history = [.sentinel] ∧ (resetRegs s).view = [.sentinel]

/-- The machine after reset is what `power_on` with the empty program text makes of the machine at construction: the model's choice of
`State.reset` (log 3). Every register is 0, the power on, every word the zero word, and the first fetch is at (0, 0). -/
def Obligations.ResetStateIsPowerOnOfEmptyText : Prop :=
  hostCall (.powerOn []) State.construction = .next (State.reset, .nothing) ∧
  State.reset.acc = 0 ∧ State.reset.ram = 0 ∧ State.reset.bank = 0 ∧ State.reset.pc = 0 ∧
  (∀ j, readOut j State.reset = 0) ∧ State.reset.running = true ∧ (∀ b l, State.reset.imem.read b l = 0) ∧
  fetchInstr State.reset = .loadIn0

/-- `power_on` of a machine that is off resets, loads and turns on, and nothing else: only the inputs survive (R121, R138; the tick
number is the caller's). -/
def Obligations.PowerOnResetsAndLoads : Prop :=
  ∀ (s : State) (x : Text) (m : IMem), s.running = false → load x = .ok m →
    ∃ t, hostCall (.powerOn x) s = .next (t, .nothing) ∧ t.running = true ∧ t.imem = m ∧
      t.acc = 0 ∧ t.ram = 0 ∧ t.bank = 0 ∧ t.pc = 0 ∧ (∀ j, readOut j t = 0) ∧ t.ins = s.ins ∧ t.tickArg = s.tickArg ∧
      t.history = [.sentinel] ∧ t.view = [.sentinel]

/-- `power_on` of a machine that is on does nothing, whatever the text: the spec's decision D7 (log 11). -/
def Obligations.PowerOnWhileOnChangesNothing : Prop :=
  ∀ (s : State) (x : Text), s.running = true → hostCall (.powerOn x) s = .next (s, .nothing)

/-- R122: `power_off` turns the power off and leaves everything else; every later step, any number of them, changes nothing and
returns the powered-off signal. -/
def Obligations.PowerOffKeepsRegistersAndStopsSteps : Prop :=
  ∀ s : State, ∃ t, hostCall .powerOff s = .next (t, .nothing) ∧ t.running = false ∧
    SameCore { s with running := false } t ∧ t.outs = s.outs ∧ t.history = s.history ∧ t.view = s.view ∧
    (s.running = false → t = s) ∧ (∀ n, core.run n t = .next t) ∧
    ∀ ticks : List Int, runCalls (ticks.map .step) t = .next t

/-- `set_input` writes the one line and nothing else, on or off (R124). -/
def Obligations.SetInputWritesOneLine : Prop :=
  ∀ (s : State) (i : InputLine) (v : Bit), ∃ t, hostCall (.setInput i v) s = .next (t, .nothing) ∧
    readInput i t = v ∧ (∀ k, k ≠ i → readInput k t = readInput k s) ∧ SameImem s t ∧ SameOutputs s t ∧ SameObservers s t ∧
    t.acc = s.acc ∧ t.ram = s.ram ∧ t.bank = s.bank ∧ t.pc = s.pc

/-- A change of an input is seen by the first step that begins after it: LOAD IN_k straight after `set_input(k, v)` loads v (R41). -/
def Obligations.InputChangeSeenByNextStep : Prop :=
  ∀ (s : State) (k : InputLine) (v : Bit) (n : Int), s.running = true → (s.imem.read s.bank s.pc).toNat = k.val →
    ∃ t, runCalls [.setInput k v, .step n] s = .next t ∧ t.acc = v ∧ readInput k t = v

/-- `step(tick)` of a running machine gives back the entry it appended, which holds the caller's tick (R65, R125, R132). -/
def Obligations.StepCallReturnsItsEntry : Prop :=
  ∀ (s : State) (n : Int), s.running = true → ∃ t e, hostCall (.step n) s = .next (t, .traceEntry e) ∧
    e.tick = n ∧ t.history = s.history ++ [.entry e] ∧ step (setTick n s) = .next t

/-- `snapshot` shows the registers and changes nothing, on or off (R26, R131). -/
def Obligations.SnapshotShowsRegisters : Prop :=
  ∀ s : State, ∃ x, hostCall .snapshot s = .next (s, .snapshot x) ∧ x.accumulator = s.acc ∧ x.ram = s.ram ∧
    x.currentBank = s.bank ∧ x.programCounter = s.pc ∧ (∀ j : OutputLatch, x.outputs[j] = readOut j s) ∧
    (∀ k : InputLine, x.inputs[k] = readInput k s) ∧ x.running = s.running

/-- The writer matrix of R27, which the spec itself derives from its other rules: whatever call the environment makes, a piece of state
that changes was written by one of the events the matrix lists for it. A `power_on` counts as a reset only where it acts, with the
power off (R121, R136); that it changes nothing while the power is on is the spec's decision D7, log 11 (DESIGN CHOICE). -/
def Obligations.WriterMatrix : Prop :=
  ∀ (c : HostCall) (s t : State) (r : HostReply), hostCall c s = .next (t, r) →
    (t.acc ≠ s.acc → Executes c s (fun w => opcodeNat w = 0 ∨ opcodeNat w = 1) ∨ Resets c s) ∧
    (t.ram ≠ s.ram → Executes c s (fun w => w = 0b10111#5) ∨ Resets c s) ∧
    (t.bank ≠ s.bank → Executes c s isBankSwitch ∨ Resets c s) ∧
    (t.pc ≠ s.pc → Executes c s (fun _ => True) ∨ Resets c s) ∧
    (readOut 0 t ≠ readOut 0 s → Executes c s (fun w => w = 0b10000#5) ∨ Resets c s) ∧
    (readOut 1 t ≠ readOut 1 s → Executes c s (fun w => w = 0b10001#5) ∨ Resets c s) ∧
    (∀ i, readInput i t ≠ readInput i s → ∃ v, c = .setInput i v) ∧
    (t.running ≠ s.running → (∃ x, c = .powerOn x) ∧ t.running = true ∨ c = .powerOff ∧ t.running = false) ∧
    ((∃ b l, t.imem.read b l ≠ s.imem.read b l) → Resets c s) ∧
    (t.history ≠ s.history ∨ t.view ≠ s.view →
      Executes c s (fun _ => True) ∧ (∃ e, t.history = s.history ++ [.entry e]) ∨
      Resets c s ∧ t.history = [.sentinel] ∧ t.view = [.sentinel])

/-! ### The trace -/

/-- Every step, and every call of the environment, keeps the trace as R126 and R129 describe it: the bounded view is the latest 20
items of the full history, newest first, and the full history is the sentinel followed by entries. -/
def Obligations.EventsKeepBoundedView : Prop :=
  (∀ s t : State, TraceKept s → step s = .next t → TraceKept t) ∧
  ∀ (c : HostCall) (s t : State) (r : HostReply), TraceKept s → hostCall c s = .next (t, r) → TraceKept t

/-- The full history, played from its sentinel, gives the registers, and every step and every call keeps it so: no write of acc, ram,
bank, pc or an output escapes the trace, and a power cycle starts both afresh (R75, R129, R135; what an entry's effect holds is the
model's choice, log 15). -/
def Obligations.EventsKeepTraceExplainingRegisters : Prop :=
  (∀ s t : State, TraceExplains s → step s = .next t → TraceExplains t) ∧
  ∀ (c : HostCall) (s t : State) (r : HostReply), TraceExplains s → hostCall c s = .next (t, r) → TraceExplains t

/-- The two trace invariants hold after reset. -/
def Obligations.TraceInvariantsHoldAtReset : Prop :=
  TraceKept State.reset ∧ TraceExplains State.reset

/-- Every entry whose tick is 0 to 99999 renders as `[Tick NNNNN] B<bank> L<line>: ` and its effect description, with the tick's five
decimal digits; any other tick is refused (R127, D13). -/
def Obligations.LogLineFormat : Prop :=
  (∀ e : TraceEntry, 0 ≤ e.tick → e.tick < 100000 → ∃ a b c d f : Nat,
    a < 10 ∧ b < 10 ∧ c < 10 ∧ d < 10 ∧ f < 10 ∧ e.tick = (10000 * a + 1000 * b + 100 * c + 10 * d + f : Nat) ∧
    renderEntry e = .ok (asciiBytes (['[', 'T', 'i', 'c', 'k', ' '] ++ [a, b, c, d, f].map (fun n => Char.ofNat (48 + n)) ++
      [']', ' ', 'B', Char.ofNat (48 + e.bank.val), ' ', 'L', Char.ofNat (48 + e.line.toNat), ':', ' ']) ++ renderEffect e)) ∧
  ∀ e : TraceEntry, (e.tick < 0 ∨ 100000 ≤ e.tick) → renderEntry e = .error .tickRendering

/-- The source's one log line (S8 with C1): LOAD IN_0 at (0, 0) that reads 1, tick 0. -/
def Obligations.ScenarioLogLine : Prop :=
  renderEntry ⟨0, 0, 0, 0, 0, .loadIn 0 1⟩ = .ok (asciiBytes "[Tick 00000] B0 L0: LOAD IN_0 -> ACC:1".toList)

/-- `export_trace` gives the rendering of every item of the full history in order, a newline after each, and changes nothing; it is
refused exactly where some tick has no stated rendering (R130, R127, D13). That the newline is LF, and that an empty history gives no
bytes, are the model's choices, log 29 and log 30 (DESIGN CHOICE). -/
def Obligations.ExportRendersWholeHistory : Prop :=
  ∀ s : State,
    ((∀ it ∈ s.history, tickRendered it) →
      hostCall .exportTrace s = .next (s, .bytes (s.history.flatMap fun it => itemBytes it ++ [newline]))) ∧
    ((∃ it ∈ s.history, ¬ tickRendered it) → hostCall .exportTrace s = .refused .tickRendering)

/-! ### The loader -/

/-- The load of a text is defined exactly where every line is well-formed, and `power_on` of a machine that is off refuses any other
text by name (R145; the refusals are the spec's decisions D5 and D6, log 6 and log 8). That a line addressed outside the machine is
well-formed also where its bit string has a value of 32 or more is the model's reading, log 7 (DEDUCED): R60 and D5, read literally,
refuse such a text. -/
def Obligations.LoadDefinedOnWellFormedTexts : Prop :=
  ∀ x : Text, (textWellFormed x = true ↔ ∃ m, load x = .ok m) ∧
    ∀ s : State, s.running = false → textWellFormed x = false →
      hostCall (.powerOn x) s = .refused .wideWord ∨ hostCall (.powerOn x) s = .refused .lineSyntax

/-- A cell that no line of the text addresses holds the zero word after the load (R139, R52). -/
def Obligations.UnaddressedCellsHoldZeroWord : Prop :=
  ∀ (x : Text) (m : IMem) (b : Bank) (l : Line), load x = .ok m → (∀ ln ∈ scanText x, ¬ storesAt b l ln) → m.read b l = 0

/-- An instruction line in the exact spelling at the end of a text overwrites its one cell, whatever earlier lines stored there and
whatever trailing text follows its bits (R55, R57, R141). -/
def Obligations.LaterLineOverwritesItsCell : Prop :=
  ∀ (x trailing : Text) (m : IMem) (b : Bank) (l : Line) (w : Word), load x = .ok m →
    (∀ c ∈ trailing, c ≠ '\n') → bitString trailing = [] →
    ∃ m', load (x ++ '\n' :: (encodeLine b l w ++ trailing)) = .ok m' ∧ m'.read b l = w ∧
      ∀ b' l', (b', l') ≠ (b, l) → m'.read b' l' = m.read b' l'

/-- A line that stores nothing leaves the load of the text as it was: an address outside the machine, an empty bit string, or no match
(R142, R143, D17, log 9). For a line outside the machine whose bit string has a value of 32 or more this is the model's reading, log 7
(DEDUCED): R60 and D5, read literally, refuse such a text. -/
def Obligations.LineWithoutStoreChangesNothing : Prop :=
  ∀ (x ln : Text), (∀ c ∈ ln, c ≠ '\n') → storesNothing (scanLine ln) → load (x ++ '\n' :: ln) = load x

/-- The value of a bit string does not depend on underscores, nor on zeros before it (R56, R59). -/
def Obligations.BitStringValueIgnoresUnderscoresAndZeros : Prop :=
  (∀ a b : Text, (∀ c ∈ a, isBitChar c = true) → bitsValue (a ++ '_' :: b) = bitsValue (a ++ b)) ∧
  ∀ (a : Text) (v : Nat), bitsValue a = some v → bitsValue ('0' :: a) = some v

/-- Program text and instruction memory agree: for every one of the 2^200 contents, its program text of 40 lines loads exactly
it. -/
def Obligations.ProgramTextRoundTrip : Prop :=
  ∀ m : IMem, load (encodeProgram m) = .ok m
end

