-- ==== Sys2Proof/Laws/State.lean ====
section
/-! SUPPORT. One lemma per field per named update of the state, each true by rfl, so that no later proof unfolds a record update. -/

namespace Sys2Proof.Machine

variable (s : State)

@[simp] theorem advance_acc : (advance s).acc = s.acc := rfl
@[simp] theorem advance_ram : (advance s).ram = s.ram := rfl
@[simp] theorem advance_bank : (advance s).bank = s.bank := rfl
@[simp] theorem advance_pc : (advance s).pc = s.pc + 1 := rfl
@[simp] theorem advance_ins : (advance s).ins = s.ins := rfl
@[simp] theorem advance_outs : (advance s).outs = s.outs := rfl
@[simp] theorem advance_running : (advance s).running = s.running := rfl
@[simp] theorem advance_imem : (advance s).imem = s.imem := rfl
@[simp] theorem advance_history : (advance s).history = s.history := rfl
@[simp] theorem advance_view : (advance s).view = s.view := rfl
@[simp] theorem advance_tickArg : (advance s).tickArg = s.tickArg := rfl

@[simp] theorem goTo_acc (k : Line) : (goTo k s).acc = s.acc := rfl
@[simp] theorem goTo_ram (k : Line) : (goTo k s).ram = s.ram := rfl
@[simp] theorem goTo_bank (k : Line) : (goTo k s).bank = s.bank := rfl
@[simp] theorem goTo_pc (k : Line) : (goTo k s).pc = k := rfl
@[simp] theorem goTo_ins (k : Line) : (goTo k s).ins = s.ins := rfl
@[simp] theorem goTo_outs (k : Line) : (goTo k s).outs = s.outs := rfl
@[simp] theorem goTo_running (k : Line) : (goTo k s).running = s.running := rfl
@[simp] theorem goTo_imem (k : Line) : (goTo k s).imem = s.imem := rfl
@[simp] theorem goTo_history (k : Line) : (goTo k s).history = s.history := rfl
@[simp] theorem goTo_view (k : Line) : (goTo k s).view = s.view := rfl
@[simp] theorem goTo_tickArg (k : Line) : (goTo k s).tickArg = s.tickArg := rfl

@[simp] theorem switchBank_acc (b : Bank) : (switchBank b s).acc = s.acc := rfl
@[simp] theorem switchBank_ram (b : Bank) : (switchBank b s).ram = s.ram := rfl
@[simp] theorem switchBank_bank (b : Bank) : (switchBank b s).bank = b := rfl
@[simp] theorem switchBank_pc (b : Bank) : (switchBank b s).pc = 0 := rfl
@[simp] theorem switchBank_ins (b : Bank) : (switchBank b s).ins = s.ins := rfl
@[simp] theorem switchBank_outs (b : Bank) : (switchBank b s).outs = s.outs := rfl
@[simp] theorem switchBank_running (b : Bank) : (switchBank b s).running = s.running := rfl
@[simp] theorem switchBank_imem (b : Bank) : (switchBank b s).imem = s.imem := rfl
@[simp] theorem switchBank_history (b : Bank) : (switchBank b s).history = s.history := rfl
@[simp] theorem switchBank_view (b : Bank) : (switchBank b s).view = s.view := rfl
@[simp] theorem switchBank_tickArg (b : Bank) : (switchBank b s).tickArg = s.tickArg := rfl

@[simp] theorem setAcc_acc (v : Bit) : (setAcc v s).acc = v := rfl
@[simp] theorem setAcc_ram (v : Bit) : (setAcc v s).ram = s.ram := rfl
@[simp] theorem setAcc_bank (v : Bit) : (setAcc v s).bank = s.bank := rfl
@[simp] theorem setAcc_pc (v : Bit) : (setAcc v s).pc = s.pc := rfl
@[simp] theorem setAcc_ins (v : Bit) : (setAcc v s).ins = s.ins := rfl
@[simp] theorem setAcc_outs (v : Bit) : (setAcc v s).outs = s.outs := rfl
@[simp] theorem setAcc_running (v : Bit) : (setAcc v s).running = s.running := rfl
@[simp] theorem setAcc_imem (v : Bit) : (setAcc v s).imem = s.imem := rfl
@[simp] theorem setAcc_history (v : Bit) : (setAcc v s).history = s.history := rfl
@[simp] theorem setAcc_view (v : Bit) : (setAcc v s).view = s.view := rfl
@[simp] theorem setAcc_tickArg (v : Bit) : (setAcc v s).tickArg = s.tickArg := rfl

@[simp] theorem setRam_acc (v : Bit) : (setRam v s).acc = s.acc := rfl
@[simp] theorem setRam_ram (v : Bit) : (setRam v s).ram = v := rfl
@[simp] theorem setRam_bank (v : Bit) : (setRam v s).bank = s.bank := rfl
@[simp] theorem setRam_pc (v : Bit) : (setRam v s).pc = s.pc := rfl
@[simp] theorem setRam_ins (v : Bit) : (setRam v s).ins = s.ins := rfl
@[simp] theorem setRam_outs (v : Bit) : (setRam v s).outs = s.outs := rfl
@[simp] theorem setRam_running (v : Bit) : (setRam v s).running = s.running := rfl
@[simp] theorem setRam_imem (v : Bit) : (setRam v s).imem = s.imem := rfl
@[simp] theorem setRam_history (v : Bit) : (setRam v s).history = s.history := rfl
@[simp] theorem setRam_view (v : Bit) : (setRam v s).view = s.view := rfl
@[simp] theorem setRam_tickArg (v : Bit) : (setRam v s).tickArg = s.tickArg := rfl

@[simp] theorem setOut_acc (j : OutputLatch) (v : Bit) : (setOut j v s).acc = s.acc := rfl
@[simp] theorem setOut_ram (j : OutputLatch) (v : Bit) : (setOut j v s).ram = s.ram := rfl
@[simp] theorem setOut_bank (j : OutputLatch) (v : Bit) : (setOut j v s).bank = s.bank := rfl
@[simp] theorem setOut_pc (j : OutputLatch) (v : Bit) : (setOut j v s).pc = s.pc := rfl
@[simp] theorem setOut_ins (j : OutputLatch) (v : Bit) : (setOut j v s).ins = s.ins := rfl
@[simp] theorem setOut_outs (j : OutputLatch) (v : Bit) : (setOut j v s).outs = s.outs.set j v := rfl
@[simp] theorem setOut_running (j : OutputLatch) (v : Bit) : (setOut j v s).running = s.running := rfl
@[simp] theorem setOut_imem (j : OutputLatch) (v : Bit) : (setOut j v s).imem = s.imem := rfl
@[simp] theorem setOut_history (j : OutputLatch) (v : Bit) : (setOut j v s).history = s.history := rfl
@[simp] theorem setOut_view (j : OutputLatch) (v : Bit) : (setOut j v s).view = s.view := rfl
@[simp] theorem setOut_tickArg (j : OutputLatch) (v : Bit) : (setOut j v s).tickArg = s.tickArg := rfl

@[simp] theorem placeWord_acc (w : Word) : (placeWord w s).acc = s.acc := rfl
@[simp] theorem placeWord_ram (w : Word) : (placeWord w s).ram = s.ram := rfl
@[simp] theorem placeWord_bank (w : Word) : (placeWord w s).bank = s.bank := rfl
@[simp] theorem placeWord_pc (w : Word) : (placeWord w s).pc = s.pc := rfl
@[simp] theorem placeWord_ins (w : Word) : (placeWord w s).ins = s.ins := rfl
@[simp] theorem placeWord_outs (w : Word) : (placeWord w s).outs = s.outs := rfl
@[simp] theorem placeWord_running (w : Word) : (placeWord w s).running = true := rfl
@[simp] theorem placeWord_imem (w : Word) : (placeWord w s).imem = s.imem.write s.bank s.pc w := rfl
@[simp] theorem placeWord_history (w : Word) : (placeWord w s).history = s.history := rfl
@[simp] theorem placeWord_view (w : Word) : (placeWord w s).view = s.view := rfl
@[simp] theorem placeWord_tickArg (w : Word) : (placeWord w s).tickArg = s.tickArg := rfl

@[simp] theorem record_acc (e : TraceEntry) : (record e s).acc = s.acc := rfl
@[simp] theorem record_ram (e : TraceEntry) : (record e s).ram = s.ram := rfl
@[simp] theorem record_bank (e : TraceEntry) : (record e s).bank = s.bank := rfl
@[simp] theorem record_pc (e : TraceEntry) : (record e s).pc = s.pc := rfl
@[simp] theorem record_ins (e : TraceEntry) : (record e s).ins = s.ins := rfl
@[simp] theorem record_outs (e : TraceEntry) : (record e s).outs = s.outs := rfl
@[simp] theorem record_running (e : TraceEntry) : (record e s).running = s.running := rfl
@[simp] theorem record_imem (e : TraceEntry) : (record e s).imem = s.imem := rfl
@[simp] theorem record_history (e : TraceEntry) : (record e s).history = s.history ++ [.entry e] := rfl
@[simp] theorem record_view (e : TraceEntry) : (record e s).view = pushView (.entry e) s.view := rfl
@[simp] theorem record_tickArg (e : TraceEntry) : (record e s).tickArg = s.tickArg := rfl

@[simp] theorem resetRegs_acc : (resetRegs s).acc = 0 := rfl
@[simp] theorem resetRegs_ram : (resetRegs s).ram = 0 := rfl
@[simp] theorem resetRegs_bank : (resetRegs s).bank = 0 := rfl
@[simp] theorem resetRegs_pc : (resetRegs s).pc = 0 := rfl
@[simp] theorem resetRegs_ins : (resetRegs s).ins = s.ins := rfl
@[simp] theorem resetRegs_outs : (resetRegs s).outs = Vector.replicate 2 0 := rfl
@[simp] theorem resetRegs_running : (resetRegs s).running = s.running := rfl
@[simp] theorem resetRegs_imem : (resetRegs s).imem = s.imem := rfl
@[simp] theorem resetRegs_history : (resetRegs s).history = sentinelTrace := rfl
@[simp] theorem resetRegs_view : (resetRegs s).view = sentinelTrace := rfl
@[simp] theorem resetRegs_tickArg : (resetRegs s).tickArg = s.tickArg := rfl

@[simp] theorem setImem_acc (m : IMem) : (setImem m s).acc = s.acc := rfl
@[simp] theorem setImem_ram (m : IMem) : (setImem m s).ram = s.ram := rfl
@[simp] theorem setImem_bank (m : IMem) : (setImem m s).bank = s.bank := rfl
@[simp] theorem setImem_pc (m : IMem) : (setImem m s).pc = s.pc := rfl
@[simp] theorem setImem_ins (m : IMem) : (setImem m s).ins = s.ins := rfl
@[simp] theorem setImem_outs (m : IMem) : (setImem m s).outs = s.outs := rfl
@[simp] theorem setImem_running (m : IMem) : (setImem m s).running = s.running := rfl
@[simp] theorem setImem_imem (m : IMem) : (setImem m s).imem = m := rfl
@[simp] theorem setImem_history (m : IMem) : (setImem m s).history = s.history := rfl
@[simp] theorem setImem_view (m : IMem) : (setImem m s).view = s.view := rfl
@[simp] theorem setImem_tickArg (m : IMem) : (setImem m s).tickArg = s.tickArg := rfl

@[simp] theorem setRunning_acc (v : Bool) : (setRunning v s).acc = s.acc := rfl
@[simp] theorem setRunning_ram (v : Bool) : (setRunning v s).ram = s.ram := rfl
@[simp] theorem setRunning_bank (v : Bool) : (setRunning v s).bank = s.bank := rfl
@[simp] theorem setRunning_pc (v : Bool) : (setRunning v s).pc = s.pc := rfl
@[simp] theorem setRunning_ins (v : Bool) : (setRunning v s).ins = s.ins := rfl
@[simp] theorem setRunning_outs (v : Bool) : (setRunning v s).outs = s.outs := rfl
@[simp] theorem setRunning_running (v : Bool) : (setRunning v s).running = v := rfl
@[simp] theorem setRunning_imem (v : Bool) : (setRunning v s).imem = s.imem := rfl
@[simp] theorem setRunning_history (v : Bool) : (setRunning v s).history = s.history := rfl
@[simp] theorem setRunning_view (v : Bool) : (setRunning v s).view = s.view := rfl
@[simp] theorem setRunning_tickArg (v : Bool) : (setRunning v s).tickArg = s.tickArg := rfl

@[simp] theorem setInput_acc (i : InputLine) (v : Bit) : (setInput i v s).acc = s.acc := rfl
@[simp] theorem setInput_ram (i : InputLine) (v : Bit) : (setInput i v s).ram = s.ram := rfl
@[simp] theorem setInput_bank (i : InputLine) (v : Bit) : (setInput i v s).bank = s.bank := rfl
@[simp] theorem setInput_pc (i : InputLine) (v : Bit) : (setInput i v s).pc = s.pc := rfl
@[simp] theorem setInput_ins (i : InputLine) (v : Bit) : (setInput i v s).ins = s.ins.set i v := rfl
@[simp] theorem setInput_outs (i : InputLine) (v : Bit) : (setInput i v s).outs = s.outs := rfl
@[simp] theorem setInput_running (i : InputLine) (v : Bit) : (setInput i v s).running = s.running := rfl
@[simp] theorem setInput_imem (i : InputLine) (v : Bit) : (setInput i v s).imem = s.imem := rfl
@[simp] theorem setInput_history (i : InputLine) (v : Bit) : (setInput i v s).history = s.history := rfl
@[simp] theorem setInput_view (i : InputLine) (v : Bit) : (setInput i v s).view = s.view := rfl
@[simp] theorem setInput_tickArg (i : InputLine) (v : Bit) : (setInput i v s).tickArg = s.tickArg := rfl

@[simp] theorem setTick_acc (n : Int) : (setTick n s).acc = s.acc := rfl
@[simp] theorem setTick_ram (n : Int) : (setTick n s).ram = s.ram := rfl
@[simp] theorem setTick_bank (n : Int) : (setTick n s).bank = s.bank := rfl
@[simp] theorem setTick_pc (n : Int) : (setTick n s).pc = s.pc := rfl
@[simp] theorem setTick_ins (n : Int) : (setTick n s).ins = s.ins := rfl
@[simp] theorem setTick_outs (n : Int) : (setTick n s).outs = s.outs := rfl
@[simp] theorem setTick_running (n : Int) : (setTick n s).running = s.running := rfl
@[simp] theorem setTick_imem (n : Int) : (setTick n s).imem = s.imem := rfl
@[simp] theorem setTick_history (n : Int) : (setTick n s).history = s.history := rfl
@[simp] theorem setTick_view (n : Int) : (setTick n s).view = s.view := rfl
@[simp] theorem setTick_tickArg (n : Int) : (setTick n s).tickArg = n := rfl

end Sys2Proof.Machine
end

