-- ==== Sys2Proof/Laws/Decode.lean ====
section
/-! SUPPORT. The fields of a word as numbers, and how to prove a fact of every word. -/

namespace Sys2Proof

theorem opcodeOf_toNat : ∀ w : Word, (opcodeOf w).toNat = Machine.opcodeNat w := by decide

theorem operandOf_toNat : ∀ w : Word, (operandOf w).toNat = Machine.operandNat w := by decide

/-- A fact of the 32 words, one number at a time. -/
theorem forall_word {p : Word → Prop} (h : ∀ n, n < 32 → p (BitVec.ofNat 5 n)) (w : Word) : p w := by
  simpa using h w.toNat w.isLt

theorem decode_jump : ∀ k : Line, decode (0b11#2 ++ k) = .jump k := by decide

theorem decode_nor : ∀ x : Operand, decode (0b01#2 ++ x) = .nor x := by decide

end Sys2Proof
end

