-- ==== Sys2Proof/Laws/Memory.lean ====
section
/-! SUPPORT. Instruction memory, input lines and output latches: a read after a write gives the value written, a write leaves every other
cell alone, and memories that read alike are equal. -/

namespace Sys2Proof

theorem IMem.ext_read {m m' : IMem} (h : ∀ b l, m.read b l = m'.read b l) : m = m' := by
  apply Vector.ext
  intro i hi
  apply Vector.ext
  intro j hj
  simpa [IMem.read, Nat.mod_eq_of_lt hj] using h ⟨i, hi⟩ (BitVec.ofNat 3 j)

@[simp] theorem IMem.read_zero (b : Bank) (l : Line) : IMem.zero.read b l = 0 := by
  simp [IMem.read, IMem.zero, zeroWord]

@[simp] theorem IMem.read_write_same (m : IMem) (b : Bank) (l : Line) (w : Word) : (m.write b l w).read b l = w := by
  simp [IMem.read, IMem.write]

theorem IMem.read_write_other (m : IMem) {b b' : Bank} {l l' : Line} (w : Word) (h : (b', l') ≠ (b, l)) :
    (m.write b l w).read b' l' = m.read b' l' := by
  by_cases hb : b = b'
  · subst hb
    have hl : ¬ l.toNat = l'.toNat := fun e => h (by rw [BitVec.eq_of_toNat_eq e])
    simp [IMem.read, IMem.write, hl]
  · have hb' : ¬ b.val = b'.val := fun e => hb (Fin.ext e)
    simp [IMem.read, IMem.write, hb']

namespace Machine

@[simp] theorem readInput_setInput_same (k : InputLine) (v : Bit) (s : State) : readInput k (setInput k v s) = v := by
  simp [readInput]

theorem readInput_setInput_other {k i : InputLine} (v : Bit) (s : State) (h : k ≠ i) :
    readInput k (setInput i v s) = readInput k s := by
  have : ¬ i.val = k.val := fun e => h (Fin.ext e.symm)
  simp [readInput, this]

@[simp] theorem readOut_setOut_same (j : OutputLatch) (v : Bit) (s : State) : readOut j (setOut j v s) = v := by
  simp [readOut]

theorem readOut_setOut_other {j i : OutputLatch} (v : Bit) (s : State) (h : j ≠ i) :
    readOut j (setOut i v s) = readOut j s := by
  have : ¬ i.val = j.val := fun e => h (Fin.ext e.symm)
  simp [readOut, this]

end Machine

end Sys2Proof
end

