-- ==== Sys2Proof/Laws/Ops.lean ====
section
/-! SUPPORT. One lemma per shared operation of the instructions: all that it does. -/

namespace Sys2Proof.Machine

/-- The ALU's gate with a constant 0 is the complement (R86). -/
theorem nor_zero (a : Bit) : nor a 0 = 1 - a := by
  revert a; decide

theorem nextLine_of_pc {s t : State} (hpc : t.pc = s.pc + 1) (hb : t.bank = s.bank) : NextLine s t := by
  refine ⟨?_, hb⟩
  rw [hpc, BitVec.toNat_add]
  rfl

theorem loadBit_spec (v : Bit) (s : State) :
    (loadBit v s).acc = v ∧ NextLine s (loadBit v s) ∧ (loadBit v s).ram = s.ram ∧ SameOutputs s (loadBit v s) ∧
      SameSurroundings s (loadBit v s) :=
  ⟨rfl, nextLine_of_pc rfl rfl, rfl, fun _ => rfl, fun _ => rfl, fun _ _ => rfl, rfl, rfl, rfl, rfl⟩

theorem storeOut_spec (j : OutputLatch) (s : State) :
    readOut j (storeOut j s) = s.acc ∧ NextLine s (storeOut j s) ∧
      (∀ j', j' ≠ j → readOut j' (storeOut j s) = readOut j' s) ∧
      (storeOut j s).acc = s.acc ∧ (storeOut j s).ram = s.ram ∧ SameSurroundings s (storeOut j s) :=
  ⟨readOut_setOut_same j s.acc s, nextLine_of_pc rfl rfl, fun _ h => readOut_setOut_other s.acc s h, rfl, rfl,
    fun _ => rfl, fun _ _ => rfl, rfl, rfl, rfl, rfl⟩

theorem storeRam_spec (s : State) :
    (storeRam s).ram = s.acc ∧ NextLine s (storeRam s) ∧ (storeRam s).acc = s.acc ∧ SameOutputs s (storeRam s) ∧
      SameSurroundings s (storeRam s) :=
  ⟨rfl, nextLine_of_pc rfl rfl, rfl, fun _ => rfl, fun _ => rfl, fun _ _ => rfl, rfl, rfl, rfl, rfl⟩

theorem switchBank_spec (b : Bank) (s : State) :
    (switchBank b s).bank = b ∧ (switchBank b s).pc = 0 ∧ (switchBank b s).acc = s.acc ∧ (switchBank b s).ram = s.ram ∧
      SameOutputs s (switchBank b s) ∧ SameSurroundings s (switchBank b s) :=
  ⟨rfl, rfl, rfl, rfl, fun _ => rfl, fun _ => rfl, fun _ _ => rfl, rfl, rfl, rfl, rfl⟩

theorem jumpTaken_iff (s : State) : jumpTaken s = true ↔ s.acc = 0 := by
  simp [jumpTaken]

/-- The bounded view after an append, where it was within its bound (R126). -/
theorem pushView_eq_take (it : TraceItem) {v : List TraceItem} (h : v.length ≤ Config.traceView) :
    pushView it v = (it :: v).take Config.traceView := by
  unfold pushView
  split
  · next hlt =>
    have : v.length = Config.traceView := by simp only [List.length_cons] at hlt; omega
    rw [List.dropLast_eq_take, List.length_cons, this, Nat.add_sub_cancel]
  · next hge => exact (List.take_of_length_le (by omega)).symm

end Sys2Proof.Machine
end

