-- ==== Sys2Proof/Laws/Step.lean ====
section
/-! SUPPORT. What an instruction and a step can do, said once: every instruction answers a next state, and leaves the surroundings alone;
a step is nothing while off, and the instruction's effect with its trace entry while on. -/

namespace Sys2Proof.Machine

theorem execJump_taken (k : Line) {s : State} (h : s.acc = 0) : exec (.jump k) s = .next (goTo k s) := by
  simp only [exec, execJump, (jumpTaken_iff s).mpr h, if_true]

theorem execJump_fallsThrough (k : Line) {s : State} (h : ¬ s.acc = 0) : exec (.jump k) s = .next (advance s) := by
  simp only [exec, execJump, if_neg (fun h' => h ((jumpTaken_iff s).mp h'))]

/-- Every instruction answers a next state in every state (R76). -/
theorem exec_next (i : Instr) (s : State) : ∃ t, exec i s = .next t := by
  cases i
  case jump k =>
    by_cases h : s.acc = 0
    · exact ⟨_, execJump_taken k h⟩
    · exact ⟨_, execJump_fallsThrough k h⟩
  all_goals exact ⟨_, rfl⟩

/-- What no instruction writes (R27): inputs, instruction memory, power state, trace, tick. -/
theorem exec_frame {i : Instr} {s t : State} (h : exec i s = .next t) :
    t.ins = s.ins ∧ t.imem = s.imem ∧ t.running = s.running ∧ t.history = s.history ∧ t.view = s.view ∧ t.tickArg = s.tickArg := by
  cases i
  case jump k =>
    simp only [exec, execJump] at h
    split at h <;> (cases h; exact ⟨rfl, rfl, rfl, rfl, rfl, rfl⟩)
  all_goals (cases h; exact ⟨rfl, rfl, rfl, rfl, rfl, rfl⟩)

theorem step_off {s : State} (h : s.running = false) : step s = .next s := by
  simp [step, h]

theorem step_on {s u : State} (h : s.running = true) (hu : exec (fetchInstr s) s = .next u) :
    step s = .next (record (entryOf s) u) := by
  simp [step, h, hu]

/-- All that a step can do. -/
theorem step_cases {s t : State} (h : step s = .next t) :
    (s.running = false ∧ t = s) ∨
    (s.running = true ∧ ∃ u, exec (fetchInstr s) s = .next u ∧ t = record (entryOf s) u) := by
  cases hr : s.running
  · rw [step_off hr] at h
    cases h
    exact .inl ⟨rfl, rfl⟩
  · obtain ⟨u, hu⟩ := exec_next (fetchInstr s) s
    rw [step_on hr hu] at h
    cases h
    exact .inr ⟨rfl, u, hu, rfl⟩

/-- A step always answers a next state (R76). -/
theorem step_next (s : State) : ∃ t, step s = .next t := by
  cases hr : s.running
  · exact ⟨s, step_off hr⟩
  · obtain ⟨u, hu⟩ := exec_next (fetchInstr s) s
    exact ⟨_, step_on hr hu⟩

/-- What no step writes: inputs, instruction memory, power state, the caller's tick. -/
theorem step_frame {s t : State} (h : step s = .next t) :
    t.ins = s.ins ∧ t.imem = s.imem ∧ t.running = s.running ∧ t.tickArg = s.tickArg := by
  rcases step_cases h with ⟨-, rfl⟩ | ⟨-, u, hu, rfl⟩
  · exact ⟨rfl, rfl, rfl, rfl⟩
  · obtain ⟨h1, h2, h3, -, -, h6⟩ := exec_frame hu
    exact ⟨h1, h2, h3, h6⟩

/-- One step, then the rest of the run. -/
theorem run_succ {s t : State} (n : Nat) (h : step s = .next t) : core.run (n + 1) s = core.run n t := by
  have hc : core.step s = .next t := h
  simp only [Host.Core.run, hc]

/-- A run of n + 1 steps begins with a step. -/
theorem run_cons {s t : State} {n : Nat} (h : core.run (n + 1) s = .next t) :
    ∃ u, step s = .next u ∧ core.run n u = .next t := by
  obtain ⟨u, hu⟩ := step_next s
  exact ⟨u, hu, by rw [← run_succ n hu]; exact h⟩

/-- All that a call of the environment can do. -/
theorem hostCall_cases {c : HostCall} {s t : State} {r : HostReply} (h : hostCall c s = .next (t, r)) :
    (∃ x, c = .powerOn x ∧ s.running = true ∧ t = s) ∨
    (∃ x m, c = .powerOn x ∧ s.running = false ∧ load x = .ok m ∧ t = setRunning true (setImem m (resetRegs s))) ∨
    (c = .powerOff ∧ t = powerOff s) ∨
    (∃ i v, c = .setInput i v ∧ t = setInput i v s) ∨
    (∃ n, c = .step n ∧ s.running = true ∧ step (setTick n s) = .next t) ∨
    (∃ n, c = .step n ∧ s.running = false ∧ t = s) ∨
    ((c = .snapshot ∨ c = .exportTrace) ∧ t = s) := by
  cases c with
  | powerOn x =>
    cases hr : s.running
    · cases hl : load x with
      | error e => simp [hostCall, powerOn, hr, hl, withReply] at h
      | ok m =>
        simp only [hostCall, powerOn, hr, hl, withReply] at h
        cases h
        exact .inr (.inl ⟨x, m, rfl, rfl, hl, rfl⟩)
    · simp only [hostCall, powerOn, hr, withReply] at h
      cases h
      exact .inl ⟨x, rfl, rfl, rfl⟩
  | powerOff => cases h; exact .inr (.inr (.inl ⟨rfl, rfl⟩))
  | setInput i v => cases h; exact .inr (.inr (.inr (.inl ⟨i, v, rfl, rfl⟩)))
  | step n =>
    cases hr : s.running
    · simp only [hostCall, stepCall, hr] at h
      cases h
      exact .inr (.inr (.inr (.inr (.inr (.inl ⟨n, rfl, rfl, rfl⟩)))))
    · obtain ⟨u, hu⟩ := step_next (setTick n s)
      simp only [hostCall, stepCall, hr, hu, withReply] at h
      cases h
      exact .inr (.inr (.inr (.inr (.inl ⟨n, rfl, rfl, hu⟩))))
  | snapshot => cases h; exact .inr (.inr (.inr (.inr (.inr (.inr ⟨.inl rfl, rfl⟩)))))
  | exportTrace =>
    simp only [hostCall, exportTrace] at h
    split at h
    · cases h; exact .inr (.inr (.inr (.inr (.inr (.inr ⟨.inr rfl, rfl⟩)))))
    · cases h

end Sys2Proof.Machine
end

