-- ==== Sys2Proof/Laws/Loader.lean ====
section
/-! SUPPORT. The loader: a text is its lines, a load is its lines one after another, and the line that encodes a word is scanned as that
word. -/

namespace Sys2Proof

theorem splitLines_ne_nil (x : Text) : splitLines x ≠ [] := by
  cases x with
  | nil => simp [splitLines]
  | cons c cs =>
    by_cases hc : c = '\n'
    · simp [splitLines, hc]
    · simp only [splitLines, hc, if_false]
      split <;> simp

/-- LF ends a line (D6): a text with an LF in it is the lines before it and the lines after it. -/
theorem splitLines_append_newline (x y : Text) : splitLines (x ++ '\n' :: y) = splitLines x ++ splitLines y := by
  induction x with
  | nil => simp [splitLines]
  | cons c cs ih =>
    by_cases hc : c = '\n'
    · simp [splitLines, hc, ih]
    · simp only [List.cons_append, splitLines, hc, if_false, ih]
      cases hs : splitLines cs with
      | nil => exact absurd hs (splitLines_ne_nil cs)
      | cons l ls => rfl

theorem splitLines_of_no_newline {ln : Text} (h : ∀ c ∈ ln, c ≠ '\n') : splitLines ln = [ln] := by
  induction ln with
  | nil => rfl
  | cons c cs ih =>
    have hc : c ≠ '\n' := h c (List.mem_cons_self ..)
    simp [splitLines, hc, ih (fun d hd => h d (List.mem_cons_of_mem _ hd))]

theorem scanText_append_line (x : Text) {ln : Text} (h : ∀ c ∈ ln, c ≠ '\n') :
    scanText (x ++ '\n' :: ln) = scanText x ++ [scanLine ln] := by
  simp [scanText, splitLines_append_newline, splitLines_of_no_newline h]

theorem digitOf_digitChar : ∀ n : Fin 10, digitOf (digitChar n.val) = some n := by decide

theorem digitChar_ne_newline : ∀ n : Fin 10, digitChar n.val ≠ '\n' := by decide

theorem isBitChar_of_mem_wordBits (w : Word) : ∀ c ∈ wordBits w, isBitChar c = true := by
  intro c hc
  obtain ⟨i, _, rfl⟩ := List.mem_map.mp hc
  split <;> rfl

/-- A word's own digits have the word's value, for each of the 32 words (R59). -/
theorem binaryValue_wordBits (w : Word) :
    stripSeparators (wordBits w) = wordBits w ∧ binaryValue (wordBits w) = w.toNat := by
  have key : ∀ n, n < 32 → stripSeparators (wordBits (BitVec.ofNat 5 n)) = wordBits (BitVec.ofNat 5 n) ∧
      binaryValue (wordBits (BitVec.ofNat 5 n)) = (BitVec.ofNat 5 n).toNat := by
    intro n hn
    interval_cases n <;> decide
  simpa using key w.toNat w.isLt

/-- The five digits of a word, with no bit character after them, have the word's value (R59). -/
theorem bitsValue_wordBits (w : Word) {t : Text} (h : bitString t = []) : bitsValue (wordBits w ++ t) = some w.toNat := by
  have hb : bitString (wordBits w ++ t) = wordBits w := by
    simp only [bitString] at h ⊢
    rw [List.takeWhile_append_of_pos (isBitChar_of_mem_wordBits w), h, List.append_nil]
  obtain ⟨hs, hv⟩ := binaryValue_wordBits w
  have hc : ∃ c cs, wordBits w = c :: cs := ⟨_, _, rfl⟩
  obtain ⟨c, cs, hc⟩ := hc
  rw [hc] at hs hv
  simp only [bitsValue, hb]
  rw [hc, hs, ← hv]

theorem wordBits_ne_newline (w : Word) : ∀ c ∈ wordBits w, c ≠ '\n' := by
  rintro c hc rfl
  exact absurd (isBitChar_of_mem_wordBits w _ hc) (by decide)

theorem encodeLine_ne_newline (b : Bank) (l : Line) (w : Word) : ∀ c ∈ encodeLine b l w, c ≠ '\n' := by
  have hb : digitChar b.val ≠ '\n' := by revert b; decide
  have hl : digitChar l.toNat ≠ '\n' := by revert l; decide
  intro c hc
  simp only [encodeLine, List.mem_append, List.mem_cons, List.not_mem_nil, or_false] at hc
  rcases hc with (rfl | rfl | rfl | rfl | rfl) | hc
  · decide
  · exact hb
  · exact hl
  · decide
  · decide
  · exact wordBits_ne_newline w c hc

/-- The encoded line, with any trailing text that does not go on with the bit string, is scanned as the address and the word (R55 to
R59). -/
theorem scanLine_encodeLine (b : Bank) (l : Line) (w : Word) {t : Text} (h : bitString t = []) :
    scanLine (encodeLine b l w ++ t) =
      .instruction ⟨b.val, by omega⟩ ⟨l.toNat, by have := l.isLt; omega⟩ (some w.toNat) := by
  have hb := digitOf_digitChar ⟨b.val, by omega⟩
  have hl := digitOf_digitChar ⟨l.toNat, by have := l.isLt; omega⟩
  have hs : startsBlank (wordBits w ++ t) = false := by
    have : ∀ w : Word, ∃ c cs, wordBits w = c :: cs ∧ c ≠ ' ' ∧ c ≠ '\t' := by
      intro w
      refine ⟨_, _, rfl, ?_, ?_⟩ <;> (dsimp only; split <;> decide)
    obtain ⟨c, cs, hw, h1, h2⟩ := this w
    simp [hw, startsBlank, h1, h2]
  have he : exactHead (encodeLine b l w ++ t) =
      some (⟨b.val, by omega⟩, ⟨l.toNat, by have := l.isLt; omega⟩, wordBits w ++ t) := by
    simp only [encodeLine, List.cons_append, List.nil_append, exactHead, and_self, if_true]
    simp only at hb hl
    rw [hb, hl]
  simp [scanLine, he, hs, bitsValue_wordBits w h]

namespace Machine

theorem loadLines_append (a b : List SourceLine) (m : IMem) :
    loadLines (a ++ b) m = match loadLines a m with
      | .ok m' => loadLines b m'
      | .error r => .error r := by
  induction a generalizing m with
  | nil => rfl
  | cons x xs ih =>
    simp only [List.cons_append, loadLines]
    cases loadLine x m with
    | ok m' => exact ih m'
    | error r => rfl

/-- The load of a text with one more line (R140). -/
theorem load_append_line (x : Text) {ln : Text} (h : ∀ c ∈ ln, c ≠ '\n') :
    load (x ++ '\n' :: ln) = match load x with
      | .ok m => loadLine (scanLine ln) m
      | .error r => .error r := by
  rw [load, scanText_append_line x h, loadLines_append, ← load]
  cases load x with
  | ok m => simp only [loadLines]; cases loadLine (scanLine ln) m <;> rfl
  | error r => rfl

/-- All that one source line can do to instruction memory (R141 to R143). -/
theorem loadLine_cases {ln : SourceLine} {m m' : IMem} (h : loadLine ln m = .ok m') :
    (storesNothing ln ∧ m' = m) ∨
    ∃ b l w, storesAt b l ln ∧ m' = m.write b l w := by
  cases ln with
  | instruction bd ld v =>
    simp only [loadLine] at h
    split at h
    · next hr =>
      cases v with
      | none => cases h; exact .inl ⟨.inr rfl, rfl⟩
      | some v =>
        simp only at h
        split at h
        · cases h
          refine .inr ⟨_, _, _, ⟨rfl, ?_⟩, rfl⟩
          simp only [BitVec.toNat_ofNat]
          omega
        · cases h
    · next hr =>
      cases h
      refine .inl ⟨.inl ?_, rfl⟩
      by_cases hb : bd.val < 5
      · have hl : ¬ ld.val < 8 := fun hl => hr ⟨hb, hl⟩
        simp [addressed, Config.nBanks, Config.nLines, hl]
      · simp [addressed, Config.nBanks, Config.nLines, hb]
  | nearMiss => cases h
  | nonMatching => cases h; exact .inl ⟨trivial, rfl⟩

end Machine

end Sys2Proof
end

