-- ==== Sys2Proof/Laws/PerInstr.lean ====
section
/-! SUPPORT. The family of statements made per instruction: its word matches its row of spec/opcode_table.json. -/

namespace Sys2Proof.Laws.EncodesTableRow

/-- The `mask` and `match` of the instruction's row. -/
def row : Instr → Word × Word
  | .loadIn0 => (0b11111, 0b00000)
  | .loadIn1 => (0b11111, 0b00001)
  | .loadIn2 => (0b11111, 0b00010)
  | .loadIn3 => (0b11111, 0b00011)
  | .loadIn4 => (0b11111, 0b00100)
  | .loadIn5 => (0b11111, 0b00101)
  | .loadIn6 => (0b11111, 0b00110)
  | .loadRam => (0b11111, 0b00111)
  | .nor _ => (0b11000, 0b01000)
  | .storeOut0 => (0b11111, 0b10000)
  | .storeOut1 => (0b11111, 0b10001)
  | .storeBank0 => (0b11111, 0b10010)
  | .storeBank1 => (0b11111, 0b10011)
  | .storeBank2 => (0b11111, 0b10100)
  | .storeBank3 => (0b11111, 0b10101)
  | .storeBank4 => (0b11111, 0b10110)
  | .storeRam => (0b11111, 0b10111)
  | .jump _ => (0b11000, 0b11000)

/-- The instruction's word, masked, is its row's match. -/
def Statement (i : Instr) : Prop := encode i &&& (row i).1 = (row i).2

theorem loadIn0 : Statement .loadIn0 := rfl
theorem loadIn1 : Statement .loadIn1 := rfl
theorem loadIn2 : Statement .loadIn2 := rfl
theorem loadIn3 : Statement .loadIn3 := rfl
theorem loadIn4 : Statement .loadIn4 := rfl
theorem loadIn5 : Statement .loadIn5 := rfl
theorem loadIn6 : Statement .loadIn6 := rfl
theorem loadRam : Statement .loadRam := rfl
theorem nor (x : Operand) : Statement (.nor x) := by revert x; unfold Statement; decide
theorem storeOut0 : Statement .storeOut0 := rfl
theorem storeOut1 : Statement .storeOut1 := rfl
theorem storeBank0 : Statement .storeBank0 := rfl
theorem storeBank1 : Statement .storeBank1 := rfl
theorem storeBank2 : Statement .storeBank2 := rfl
theorem storeBank3 : Statement .storeBank3 := rfl
theorem storeBank4 : Statement .storeBank4 := rfl
theorem storeRam : Statement .storeRam := rfl
theorem jump (k : Line) : Statement (.jump k) := by revert k; unfold Statement; decide

end Sys2Proof.Laws.EncodesTableRow
end

