-- ==== Sys2Proof/Tests/Slice0.lean ====
section
/-! SUPPORT. The model's own tests: words written out from the spec's encodings, the vectors of spec/95_test_vectors.md (V-numbers), the
smoke tests of WellFormed, and for every statement with hypotheses a state and operands that meet them. -/

namespace Sys2Proof.Tests

open Sys2Proof.Machine

/-! ### WellFormed: each check refuses an ill-formed term -/

theorem test_wide_word_ill_formed : (SourceLine.instruction 0 3 (some 32)).wellFormed = false := by decide
theorem test_near_miss_ill_formed : SourceLine.nearMiss.wellFormed = false := by decide
theorem test_out_of_range_wide_word_well_formed :
    (SourceLine.instruction 5 0 (some 32)).wellFormed = true ∧ (SourceLine.instruction 0 8 (some 32)).wellFormed = true := by decide

/-! ### Decode: words from R50 -/

theorem test_decode_load :
    decode 0b00000#5 = .loadIn0 ∧ decode 0b00001#5 = .loadIn1 ∧ decode 0b00010#5 = .loadIn2 ∧ decode 0b00011#5 = .loadIn3 ∧
    decode 0b00100#5 = .loadIn4 ∧ decode 0b00101#5 = .loadIn5 ∧ decode 0b00110#5 = .loadIn6 ∧ decode 0b00111#5 = .loadRam := by decide
theorem test_decode_nor : decode 0b01000#5 = .nor 0 ∧ decode 0b01101#5 = .nor 5 ∧ decode 0b01111#5 = .nor 7 := by decide
theorem test_decode_store :
    decode 0b10000#5 = .storeOut0 ∧ decode 0b10001#5 = .storeOut1 ∧ decode 0b10010#5 = .storeBank0 ∧ decode 0b10011#5 = .storeBank1 ∧
    decode 0b10100#5 = .storeBank2 ∧ decode 0b10101#5 = .storeBank3 ∧ decode 0b10110#5 = .storeBank4 ∧
    decode 0b10111#5 = .storeRam := by decide
theorem test_decode_jump : decode 0b11000#5 = .jump 0 ∧ decode 0b11011#5 = .jump 3 ∧ decode 0b11111#5 = .jump 7 := by decide
theorem test_table_word : decodeTableWord 8 22 = some .storeBank4 ∧ decodeTableWord 8 32 = none ∧ decodeTableWord 5 27 = some (.jump 3) := by
  decide

/-! ### One step: the vectors of spec/95_test_vectors.md -/

/-- A running machine with the registers given, every input line at `i`, and `w` where the next step fetches. -/
def at_ (acc ram : Bit) (bank : Bank) (pc : Line) (o0 o1 i : Bit) (w : Word) : State :=
  placeWord w { State.reset with
    acc := acc, ram := ram, bank := bank, pc := pc, outs := #v[o0, o1], ins := Vector.replicate 7 i }

/-- The registers after one step. -/
def after (s : State) : Option Regs :=
  match step s with
  | .next t => some (regsOf t)
  | _ => none

/-- The registers as the vectors write them. -/
def regs (acc ram : Bit) (bank : Bank) (pc : Line) (o0 o1 : Bit) : Regs := ⟨acc, ram, bank, pc, #v[o0, o1]⟩

theorem test_V10 : after (at_ 0 0 0 0 0 0 1 0b00000) = some (regs 1 0 0 1 0 0) := by decide
theorem test_V11 : after (setInput 3 0 (at_ 1 1 2 4 1 0 1 0b00011)) = some (regs 0 1 2 5 1 0) := by decide
theorem test_V12 : after (setInput 6 1 (at_ 0 0 0 6 0 0 0 0b00110)) = some (regs 1 0 0 7 0 0) := by decide
theorem test_V13 : after (at_ 0 0 1 2 0 0 1 0b00111) = some (regs 0 0 1 3 0 0) := by decide
theorem test_V14 : after (at_ 0 1 1 2 0 0 0 0b00111) = some (regs 1 1 1 3 0 0) := by decide
theorem test_V15 : after (setInput 1 1 (at_ 0 0 4 7 0 0 0 0b00001)) = some (regs 1 0 4 0 0 0) := by decide
theorem test_load_line_2 : after (setInput 2 1 (at_ 0 0 0 0 0 0 0 0b00010)) = some (regs 1 0 0 1 0 0) := by decide
theorem test_load_line_4 : after (setInput 4 1 (at_ 0 0 0 0 0 0 0 0b00100)) = some (regs 1 0 0 1 0 0) := by decide
theorem test_load_line_5 : after (setInput 5 1 (at_ 0 0 0 0 0 0 0 0b00101)) = some (regs 1 0 0 1 0 0) := by decide
theorem test_V21 : after (at_ 1 0 0 1 0 0 0 0b01000) = some (regs 0 0 0 2 0 0) := by decide
theorem test_V22 : after (at_ 0 1 3 5 1 1 1 0b01111) = some (regs 1 1 3 6 1 1) := by decide
theorem test_V30 : after (at_ 1 0 0 2 0 0 0 0b10000) = some (regs 1 0 0 3 1 0) := by decide
theorem test_V31 : after (at_ 1 0 0 2 0 0 0 0b10001) = some (regs 1 0 0 3 0 1) := by decide
theorem test_V32 : after (at_ 0 0 0 2 1 1 0 0b10000) = some (regs 0 0 0 3 0 1) := by decide
theorem test_R91_example : after (at_ 0 0 0 7 1 1 0 0b10001) = some (regs 0 0 0 0 1 0) := by decide
theorem test_V33 : after (at_ 1 0 0 2 0 1 0 0b10011) = some (regs 1 0 1 0 0 1) := by decide
theorem test_V34 : after (at_ 1 1 3 6 1 0 0 0b10010) = some (regs 1 1 0 0 1 0) := by decide
theorem test_V35 : after (at_ 0 0 0 0 0 0 0 0b10110) = some (regs 0 0 4 0 0 0) := by decide
theorem test_V36 : after (at_ 0 0 2 7 0 0 0 0b10100) = some (regs 0 0 2 0 0 0) := by decide
theorem test_V37 : after (at_ 1 0 1 0 0 0 0 0b10101) = some (regs 1 0 3 0 0 0) := by decide
theorem test_V39 : after (at_ 1 0 0 4 0 0 0 0b10111) = some (regs 1 1 0 5 0 0) := by decide
theorem test_V40 : after (at_ 0 1 3 5 1 0 0 0b11000) = some (regs 0 1 3 0 1 0) := by decide
theorem test_V47 : after (at_ 1 0 4 7 0 0 0 0b11101) = some (regs 1 0 4 0 0 0) := by decide

/-- V52: a step while off changes nothing. -/
theorem test_V52 : after (powerOff (at_ 1 1 3 5 1 0 0 0b11111)) = some (regs 1 1 3 5 1 0) := by decide

/-! ### The loader: V60 to V72 and P4 -/

/-- What a text leaves in a cell. -/
def cell (x : Text) (b : Bank) (l : Line) : Except Refusal Word :=
  match load x with
  | .ok m => .ok (m.read b l)
  | .error r => .error r

theorem test_V60 : cell "#12: 10000".toList 1 2 = .ok 0b10000 ∧ cell "#12: 10000".toList 0 0 = .ok 0 := by decide
theorem test_V61 : cell "#00: 11_011".toList 0 0 = .ok 0b11011 := by decide
theorem test_V62 : cell "#00: 1_1_0_1_1".toList 0 0 = .ok 0b11011 := by decide
theorem test_V63 : cell "#47: 11111 ; last cell".toList 4 7 = .ok 0b11111 := by decide
theorem test_V64_V65 : load "#50: 11111".toList = .ok IMem.zero ∧ load "#08: 11111".toList = .ok IMem.zero := by decide
theorem test_V66 : load "#01: _".toList = .ok IMem.zero ∧ diagnosticCount "#01: _".toList = 1 := by decide
theorem test_V67 : cell "#00: 11111\n#00: 01000".toList 0 0 = .ok 0b01000 := by decide
theorem test_V68 : cell "#00: 11111\n#00: _".toList 0 0 = .ok 0b11111 := by decide
theorem test_V69 : cell "#03: 1".toList 0 3 = .ok 0b00001 := by decide
theorem test_V70 : load "#03: 100000".toList = .error .wideWord := by decide
theorem test_V71 : load "hello\n\n; comment".toList = .ok IMem.zero := by decide
theorem test_R57_trailing : cell "#21: 10_011 0101".toList 2 1 = .ok 0b10011 := by decide
theorem test_R62_near_misses :
    load " #00: 01000".toList = .error .lineSyntax ∧ load "#00:01000".toList = .error .lineSyntax ∧
    load "x #00: 01000".toList = .error .lineSyntax ∧ load "#00:  01000".toList = .error .lineSyntax := by decide
theorem test_R62_non_matching : load "#2 2: 11111".toList = .ok IMem.zero := by decide

/-- Part of P4: seven of its ten lines. -/
def textP4 : Text :=
  "#00: 11_111 first\n#00: 01_010 ; overwrites\n#01: _      ; invalid\n#47: 1      ; short\n#50: 11111\n#21: 10_0_1_1 tail 0101\nhello".toList

theorem test_P4 :
    load textP4 = .ok (((IMem.zero.write 0 0 10).write 4 7 1).write 2 1 19) ∧ diagnosticCount textP4 = 1 := by
  decide +kernel

/-! ### The environment: V50 to V56 -/

/-- V50, V56: power-on with the empty text leaves the inputs and gives the reset registers. -/
theorem test_V50_V56 :
    (match runCalls [.setInput 2 1, .powerOn []] (powerOff (at_ 1 1 3 5 1 0 0 7)) with
     | .next t => decide (regsOf t = regs 0 0 0 0 0 0 ∧ t.running = true ∧ t.ins = #v[0, 0, 1, 0, 0, 0, 0] ∧ t.imem = IMem.zero)
     | _ => false) = true := by decide

/-- V55: a change is seen by the first step that starts after it. -/
theorem test_V55 :
    (match runCalls [.step 0, .setInput 2 1, .step 1] (goTo 0 (placeWord 2 (advance (at_ 0 0 0 0 0 0 0 2)))) with
     | .next t => t.acc
     | _ => 0) = 1 := by decide

/-- S8 with C1: the one log line the source gives. -/
theorem test_S8 : entryOf (at_ 0 0 0 0 0 0 1 0) = ⟨0, 0, 0, 0, 0, .loadIn 0 1⟩ := by decide

/-! ### Witnesses: the hypotheses of each statement are met -/

theorem witness_PlacedWordIsFetched : decodeTableWord 8 31 = some (.jump 7) ∧ 32 ≤ 32 % 2 ^ 8 := by decide

theorem witness_StepRunsDecodedInstruction :
    State.reset.running = true ∧ decode (State.reset.imem.read State.reset.bank State.reset.pc) = .loadIn0 := by decide

/-- Also of StepEntryReportsFetchAddress, RunNeverHalts, PowerOnWhileOnChangesNothing and StepCallReturnsItsEntry. -/
theorem witness_running : State.reset.running = true := rfl

/-- Each clause of R73's table: a bank switch at either end of its operands, a jump that is taken, and every other case. -/
theorem witness_NextFetchAddress :
    isBankSwitch 0b10010#5 ∧ isBankSwitch 0b10110#5 ∧ (opcodeNat 0b11000#5 = 3 ∧ (at_ 0 0 0 0 0 0 0 24).acc = 0) ∧
    (¬ isBankSwitch 0b10111#5 ∧ ¬ (opcodeNat 0b10111#5 = 3 ∧ (at_ 0 0 0 0 0 0 0 23).acc = 0)) ∧
    ¬ isBankSwitch 0b10001#5 ∧ (at_ 0 0 0 0 0 0 0 24).running = true := by
  unfold isBankSwitch; decide

/-- Also of PowerOffKeepsRegistersAndStopsSteps' clause about a machine that is off. -/
theorem witness_StepWhileOffChangesNothing : State.construction.running = false := rfl

theorem witness_RunKeepsProgramInputsPower : core.run 0 State.reset = .next State.reset := rfl

theorem witness_BankWithoutTransfersLoops : State.reset.running = true ∧ NoTransfer State.reset.imem State.reset.bank :=
  ⟨rfl, by unfold NoTransfer isBankSwitch; decide⟩

theorem witness_FixedPointsRepeatForEver_bank :
    (at_ 1 0 4 0 0 0 0 22).running = true ∧ (at_ 1 0 4 0 0 0 0 22).pc = 0 ∧
    ((at_ 1 0 4 0 0 0 0 22).imem.read 4 0).toNat = 18 + (at_ 1 0 4 0 0 0 0 22).bank.val := by decide

theorem witness_FixedPointsRepeatForEver_jump :
    (at_ 0 0 1 7 0 0 0 31).running = true ∧ (at_ 0 0 1 7 0 0 0 31).acc = 0 ∧
    ((at_ 0 0 1 7 0 0 0 31).imem.read 1 7).toNat = 24 + (at_ 0 0 1 7 0 0 0 31).pc.toNat := by decide

/-- Two machines that differ in outputs, trace and tick. -/
theorem witness_OutputsAndTraceHaveNoInfluence :
    SameCore State.reset (setTick 5 (record ⟨0, 0, 0, 0, 0, .nor 1⟩ (setOut 0 1 State.reset))) :=
  ⟨rfl, rfl, rfl, rfl, rfl, rfl, rfl⟩

theorem witness_UnreadInputHasNoInfluence :
    State.reset.running = true ∧ (State.reset.imem.read State.reset.bank State.reset.pc).toNat ≠ (6 : InputLine).val ∧
    ∃ t, step State.reset = .next t := ⟨rfl, by decide, _, rfl⟩

theorem witness_PowerOnResetsAndLoads :
    State.construction.running = false ∧ load "#00: 01000".toList = .ok (IMem.zero.write 0 0 8) := ⟨rfl, by decide⟩

theorem witness_InputChangeSeenByNextStep :
    (at_ 0 0 0 0 0 0 0 6).running = true ∧ ((at_ 0 0 0 0 0 0 0 6).imem.read 0 0).toNat = (6 : InputLine).val ∧
    ((at_ 0 0 0 0 0 0 0 0).imem.read 0 0).toNat = (0 : InputLine).val := by decide

/-- One call for each clause of the writer matrix: a step that writes, a power-on that resets, a set input, a power-off. -/
theorem witness_WriterMatrix :
    (∃ t r, hostCall (.step 3) State.reset = .next (t, r) ∧ t.pc ≠ State.reset.pc ∧ t.history ≠ State.reset.history) ∧
    (∃ t r, hostCall (.powerOn []) (powerOff (at_ 1 1 3 5 1 1 0 7)) = .next (t, r) ∧ t.acc ≠ 1 ∧ t.ram ≠ 1 ∧ t.bank ≠ 3 ∧ t.pc ≠ 5 ∧
      readOut 0 t ≠ 1 ∧ readOut 1 t ≠ 1 ∧ t.imem.read 3 5 ≠ 7 ∧ t.running = true) ∧
    (∃ t r, hostCall (.setInput 6 1) (at_ 0 0 0 0 0 0 0 0) = .next (t, r) ∧ readInput 6 t ≠ readInput 6 (at_ 0 0 0 0 0 0 0 0)) ∧
    ∃ t r, hostCall .powerOff State.reset = .next (t, r) ∧ t.running = false :=
  ⟨⟨_, _, rfl, by decide, by decide⟩,
   ⟨_, _, rfl, by decide, by decide, by decide, by decide, by decide, by decide, by decide, rfl⟩,
   ⟨_, _, rfl, by decide⟩, ⟨_, _, rfl, rfl⟩⟩

/-- Of EventsKeepBoundedView: the machine after reset, a step of it and a call on it. -/
theorem witness_EventsKeepBoundedView :
    TraceKept State.reset ∧ (∃ t, step State.reset = .next t) ∧ ∃ t r, hostCall (.step 0) State.reset = .next (t, r) :=
  ⟨⟨rfl, [], rfl⟩, ⟨_, rfl⟩, ⟨_, _, rfl⟩⟩

/-- Of EventsKeepTraceExplainingRegisters, with registers that are not those of reset. -/
theorem witness_EventsKeepTraceExplainingRegisters :
    TraceExplains (record ⟨0, 0, 0, 1, 0, .nor 1⟩ (setAcc 1 (advance State.reset))) ∧
    (∃ t, step (record ⟨0, 0, 0, 1, 0, .nor 1⟩ (setAcc 1 (advance State.reset))) = .next t) ∧
    ∃ t r, hostCall .snapshot (record ⟨0, 0, 0, 1, 0, .nor 1⟩ (setAcc 1 (advance State.reset))) = .next (t, r) :=
  ⟨rfl, ⟨_, rfl⟩, ⟨_, _, rfl⟩⟩

/-- Both clauses of LogLineFormat at the ends of their ranges. -/
theorem witness_LogLineFormat :
    ((0 : Int) ≤ 0 ∧ (0 : Int) < 100000) ∧ ((0 : Int) ≤ 99999 ∧ (99999 : Int) < 100000) ∧
    ((-1 : Int) < 0 ∨ 100000 ≤ (-1 : Int)) ∧ ((100000 : Int) < 0 ∨ (100000 : Int) ≤ 100000) := by decide

theorem witness_ExportRendersWholeHistory :
    (∀ it ∈ State.reset.history, tickRendered it) ∧
    ∃ it ∈ (record ⟨100000, 0, 0, 0, 0, .nor 1⟩ State.reset).history, ¬ tickRendered it := by
  refine ⟨?_, .entry ⟨100000, 0, 0, 0, 0, .nor 1⟩, by decide, by simp [tickRendered]⟩
  intro it h
  obtain rfl := List.mem_singleton.mp h
  trivial

theorem witness_UnaddressedCellsHoldZeroWord :
    load "#00: 01000".toList = .ok (IMem.zero.write 0 0 8) ∧ ∀ ln ∈ scanText "#00: 01000".toList, ¬ storesAt 4 7 ln := by
  refine ⟨by decide, ?_⟩
  have : scanText "#00: 01000".toList = [.instruction 0 0 (some 8)] := by decide
  rw [this]
  intro ln h
  obtain rfl := List.mem_singleton.mp h
  simp [storesAt]

/-- Of LoadDefinedOnWellFormedTexts' second clause, for either refusal. -/
theorem witness_LoadDefinedOnWellFormedTexts :
    State.construction.running = false ∧ textWellFormed "#03: 100000".toList = false ∧
    textWellFormed "#03:1".toList = false := ⟨rfl, by decide, by decide⟩

theorem witness_LaterLineOverwritesItsCell :
    load "#00: 11111".toList = .ok (IMem.zero.write 0 0 31) ∧ (∀ c ∈ [' ', ';'], c ≠ '\n') ∧ bitString [' ', ';'] = [] :=
  ⟨by decide, by simp, by decide⟩

/-- Each kind of line that stores nothing: out of range at the boundary bank 5 and line 8, an empty bit string, no match. -/
theorem witness_LineWithoutStoreChangesNothing :
    (∀ c ∈ ['#', '5', '0', ':', ' ', '1'], c ≠ '\n') ∧ storesNothing (scanLine ['#', '5', '0', ':', ' ', '1']) ∧
    storesNothing (scanLine "#08: 11111".toList) ∧ storesNothing (scanLine "#01: _".toList) ∧
    storesNothing (scanLine "hello".toList) := by
  have h1 : scanLine ['#', '5', '0', ':', ' ', '1'] = .instruction 5 0 (some 1) := by decide
  have h2 : scanLine "#08: 11111".toList = .instruction 0 8 (some 31) := by decide
  have h3 : scanLine "#01: _".toList = .instruction 0 1 none := by decide
  have h4 : scanLine "hello".toList = .nonMatching := by decide
  rw [h1, h2, h3, h4]
  exact ⟨by simp, .inl (by decide), .inl (by decide), .inr rfl, trivial⟩

theorem witness_BitStringValueIgnoresUnderscoresAndZeros :
    (∀ c ∈ ['1', '0'], isBitChar c = true) ∧ bitsValue ['1', '_', '0', ' '] = some 2 := ⟨by simp [isBitChar], by decide⟩

end Sys2Proof.Tests
end

section
/-! The fields of a decoded instruction are the fields of its word (spec/30_encoding.md R47). -/

namespace Sys2Proof

/-! ### The bits of a word's fields -/

theorem opcodeOf_eq_bits : ∀ w : Word, opcodeOf w = BitVec.ofBool (w.getLsbD 4) ++ BitVec.ofBool (w.getLsbD 3) := by decide

theorem operandOf_eq_bits : ∀ w : Word,
    operandOf w = BitVec.ofBool (w.getLsbD 2) ++ BitVec.ofBool (w.getLsbD 1) ++ BitVec.ofBool (w.getLsbD 0) := by decide

/-! ### The two sub-form tables -/

@[simp] theorem decodeLoad_opcode : ∀ b2 b1 b0 : Bool, (decodeLoad b2 b1 b0).opcode = 0b00#2 := by decide

@[simp] theorem decodeStore_opcode : ∀ b2 b1 b0 : Bool, (decodeStore b2 b1 b0).opcode = 0b10#2 := by decide

@[simp] theorem decodeLoad_operand : ∀ b2 b1 b0 : Bool,
    (decodeLoad b2 b1 b0).operand = BitVec.ofBool b2 ++ BitVec.ofBool b1 ++ BitVec.ofBool b0 := by decide

@[simp] theorem decodeStore_operand : ∀ b2 b1 b0 : Bool,
    (decodeStore b2 b1 b0).operand = BitVec.ofBool b2 ++ BitVec.ofBool b1 ++ BitVec.ofBool b0 := by decide

/-! ### The fields of a decoded instruction -/

/-- Each opcode's branch of `decode` answers only instructions of that opcode (R48). -/
@[simp] theorem decode_opcode (w : Word) : (decode w).opcode = opcodeOf w := by
  rw [opcodeOf_eq_bits]
  cases h4 : w.getLsbD 4 <;> cases h3 : w.getLsbD 3 <;> simp only [decode, h4, h3]
  case false.false => exact decodeLoad_opcode _ _ _
  case false.true => rfl
  case true.false => exact decodeStore_opcode _ _ _
  case true.true => rfl

/-- LOAD and STORE name the operand by their sub-form, NOR and JUMP keep it as it is (R49). -/
@[simp] theorem decode_operand (w : Word) : (decode w).operand = operandOf w := by
  cases h4 : w.getLsbD 4 <;> cases h3 : w.getLsbD 3 <;> simp only [decode, h4, h3]
  case false.false => rw [decodeLoad_operand, operandOf_eq_bits]
  case false.true => rfl
  case true.false => rw [decodeStore_operand, operandOf_eq_bits]
  case true.true => rfl

/-! ### The fields as numbers -/

theorem opcodeNat_eq_shiftRight (w : Word) : Machine.opcodeNat w = w.toNat >>> 3 :=
  (Nat.shiftRight_eq_div_pow w.toNat 3).symm

theorem operandNat_eq_and (w : Word) : Machine.operandNat w = w.toNat &&& 7 :=
  (Nat.and_two_pow_sub_one_eq_mod w.toNat 3).symm

theorem toNat_eq_opcodeNat_operandNat (w : Word) : w.toNat = 8 * Machine.opcodeNat w + Machine.operandNat w :=
  (Nat.div_add_mod w.toNat 8).symm

/-- Settles O1: the decoded fields are the word's, which are its quotient and remainder by 8. -/
theorem decodeSplitsWord : Obligations.DecodeSplitsWord := by
  intro w
  rw [decode_opcode, decode_operand, opcodeOf_toNat, operandOf_toNat]
  exact ⟨opcodeNat_eq_shiftRight w, operandNat_eq_and w, toNat_eq_opcodeNat_operandNat w⟩

end Sys2Proof
end

section
/-! Where the next step fetches from (spec/40_cycle.md R71 to R73), and the step of a machine that is off (R66, R123). -/

namespace Sys2Proof.Machine

/-! ### The fields of a fetched word, read off its instruction -/

theorem opcodeNat_of_decode {w : Word} {i : Instr} (h : decode w = i) : opcodeNat w = i.opcode.toNat := by
  rw [← h, decode_opcode, opcodeOf_toNat]

theorem operandNat_of_decode {w : Word} {i : Instr} (h : decode w = i) : operandNat w = i.operand.toNat := by
  rw [← h, decode_operand, operandOf_toNat]

/-! ### The next fetch address -/

/-- The three ways a word's instruction sets the next fetch address (R72): a bank switch, a taken jump, the next line. -/
theorem exec_decode_address {w : Word} {s t : State} (h : exec (decode w) s = .next t) :
    (opcodeNat w = 2 ∧ operandNat w = t.bank.val + 2 ∧ t.pc = 0) ∨
    (opcodeNat w = 3 ∧ s.acc = 0 ∧ t.bank = s.bank ∧ t.pc.toNat = operandNat w) ∨
    (¬ isBankSwitch w ∧ ¬ (opcodeNat w = 3 ∧ s.acc = 0) ∧ NextLine s t) := by
  generalize hi : decode w = i at h
  have hop := opcodeNat_of_decode hi
  have hk := operandNat_of_decode hi
  cases i
  case storeBank0 | storeBank1 | storeBank2 | storeBank3 | storeBank4 =>
    cases h
    exact .inl ⟨hop, hk, rfl⟩
  case jump k =>
    by_cases hacc : s.acc = 0
    · rw [execJump_taken k hacc] at h
      cases h
      exact .inr (.inl ⟨hop, hacc, rfl, hk.symm⟩)
    · rw [execJump_fallsThrough k hacc] at h
      cases h
      have hns : ¬ isBankSwitch w := by simp [isBankSwitch, hop, Instr.opcode]
      exact .inr (.inr ⟨hns, fun hj => hacc hj.2, nextLine_of_pc rfl rfl⟩)
  -- LOAD, NOR, and STORE to a latch or to the cell: neither transfer form, and each advances
  all_goals
    cases h
    have hns : ¬ isBankSwitch w := by simp [isBankSwitch, hop, hk, Instr.opcode, Instr.operand]
    have hnj : ¬ (opcodeNat w = 3 ∧ s.acc = 0) := by simp [hop, Instr.opcode]
    exact .inr (.inr ⟨hns, hnj, nextLine_of_pc rfl rfl⟩)

/-- The fetched instruction leaves `bank` and `pc` at R73's address: each way to set them is one row of the table. -/
theorem nextAddress_of_exec {s t : State} (h : exec (fetchInstr s) s = .next t) : NextAddress s t := by
  rcases exec_decode_address h with ⟨hop, hk, hpc⟩ | ⟨hop, hacc, hb, hpc⟩ | ⟨hns, hnj, hpc, hb⟩
  · have hs : isBankSwitch (fetchWord s) := ⟨hop, by omega, by have := t.bank.isLt; omega⟩
    exact ⟨fun _ => ⟨(Nat.sub_eq_of_eq_add hk).symm, by rw [hpc]; rfl⟩,
      fun hj => absurd (hop.symm.trans hj.1) (by decide), fun hn => absurd hs hn.1⟩
  · exact ⟨fun hs => absurd (hop.symm.trans hs.1) (by decide), fun _ => ⟨hb, hpc⟩, fun hn => absurd ⟨hop, hacc⟩ hn.2⟩
  · exact ⟨fun hs => absurd hs hns, fun hj => absurd hj hnj, fun _ => ⟨hb, hpc⟩⟩

/-- The trace entry is no part of the address. -/
@[simp] theorem nextAddress_record (e : TraceEntry) (s t : State) : NextAddress s (record e t) ↔ NextAddress s t := Iff.rfl

/-- Settles O15: the step of a running machine is the fetched instruction's effect and a trace entry. -/
theorem nextFetchAddress : Obligations.NextFetchAddress := by
  intro s hrun
  obtain ⟨t, ht⟩ := exec_next (fetchInstr s) s
  exact ⟨_, step_on hrun ht, (nextAddress_record _ s t).mpr (nextAddress_of_exec ht)⟩

/-! ### A step while off -/

theorem hostCall_step_off {s : State} (h : s.running = false) (n : Int) :
    hostCall (.step n) s = .next (s, .poweredOffSignal) := by
  simp [hostCall, stepCall, h]

/-- Settles O18: the power check comes before all else, in the step and in the call (R66). -/
theorem stepWhileOffChangesNothing : Obligations.StepWhileOffChangesNothing :=
  fun _ hoff => ⟨step_off hoff, hostCall_step_off hoff⟩

end Sys2Proof.Machine
end

section
/-! LOAD (spec/41_load.md R80, R81): which bit each of its words puts into the accumulator. -/

namespace Sys2Proof.Machine

/-- An instruction whose meaning is `loadBit` has that operation's effect and frame. -/
theorem loadsBit_of_exec {i : Instr} {v : State → Bit} (h : ∀ s, exec i s = .next (loadBit (v s) s)) : LoadsBit i v :=
  fun s => ⟨loadBit (v s) s, h s, loadBit_spec (v s) s⟩

/-- The word with the value k below 7 is the LOAD of input line k (R49): the operand is the line's index. -/
theorem exec_decode_loadIn (k : InputLine) (s : State) :
    exec (decode (BitVec.ofNat 5 k.val)) s = .next (loadBit (readInput k s) s) := by
  fin_cases k <;> rfl

/-- The instruction that the word of input line k decodes to loads that line. -/
theorem loadsBit_of_decode_loadIn (k : InputLine) {i : Instr} (h : decode (BitVec.ofNat 5 k.val) = i) :
    LoadsBit i (readInput k) :=
  loadsBit_of_exec fun s => h ▸ exec_decode_loadIn k s

theorem exec_loadRam (s : State) : exec .loadRam s = .next (loadBit s.ram s) := rfl

/-- Settles O5: each of the seven words is that of its input line. -/
theorem loadInputLine : Obligations.LoadInputLine :=
  ⟨⟨rfl, loadsBit_of_decode_loadIn 0 rfl⟩, ⟨rfl, loadsBit_of_decode_loadIn 1 rfl⟩, ⟨rfl, loadsBit_of_decode_loadIn 2 rfl⟩,
    ⟨rfl, loadsBit_of_decode_loadIn 3 rfl⟩, ⟨rfl, loadsBit_of_decode_loadIn 4 rfl⟩, ⟨rfl, loadsBit_of_decode_loadIn 5 rfl⟩,
    ⟨rfl, loadsBit_of_decode_loadIn 6 rfl⟩⟩

/-- Settles O6: operand 7 selects the data cell. -/
theorem loadRamCell : Obligations.LoadRamCell :=
  ⟨rfl, loadsBit_of_exec exec_loadRam⟩

end Sys2Proof.Machine
end

section
/-! NOR (spec/42_nor.md R85): the negation of the accumulator, the same for each of its eight words. -/

namespace Sys2Proof.Machine

@[simp] theorem loadBit_acc (v : Bit) (s : State) : (loadBit v s).acc = v := rfl

/-- The ALU against the constant 0, whatever the operand bits. -/
theorem exec_nor (x : Operand) (s : State) : exec (.nor x) s = .next (loadBit (nor s.acc 0) s) := rfl

/-- The same effect as arithmetic on one bit. -/
theorem exec_nor_eq_one_sub (x : Operand) (s : State) : exec (.nor x) s = .next (loadBit (1 - s.acc) s) := by
  rw [exec_nor, nor_zero]

/-- NOR is an involution on the accumulator, also with two different operands. -/
theorem exec_nor_nor (x y : Operand) (s : State) :
    ∃ t u, exec (.nor x) s = .next t ∧ exec (.nor y) t = .next u ∧ u.acc = s.acc :=
  ⟨_, _, exec_nor_eq_one_sub x s, exec_nor_eq_one_sub y _, by rw [loadBit_acc, loadBit_acc, sub_sub_cancel]⟩

/-- The constant 1 without reading an input. -/
theorem exec_nor_resetRegs (x : Operand) (s : State) : ∃ t, exec (.nor x) (resetRegs s) = .next t ∧ t.acc = 1 :=
  ⟨_, exec_nor_eq_one_sub x _, by rw [loadBit_acc, resetRegs_acc, sub_zero]⟩

/-- Settles O7: NOR is the load of the accumulator's complement. -/
theorem norComplements : Obligations.NorComplements :=
  ⟨fun x => ⟨decode_nor x, loadsBit_of_exec (exec_nor_eq_one_sub x), loadsBit_of_exec (exec_nor x)⟩,
    exec_nor_nor, exec_nor_resetRegs⟩

end Sys2Proof.Machine
end

section
/-! STORE (spec/43_store.md R90 to R93): which shared operation each of its words performs. -/

namespace Sys2Proof.Machine

/-! ### The output latches -/

/-- The word with the value 16 + j is the STORE to latch j (R90, R91): the operand is the latch's index. -/
theorem exec_decode_storeOut (j : OutputLatch) (s : State) :
    exec (decode (BitVec.ofNat 5 (16 + j.val))) s = .next (storeOut j s) := by
  fin_cases j <;> rfl

/-- The instruction that latch j's word decodes to stores to that latch. -/
theorem storesToLatch_of_decode (j : OutputLatch) {i : Instr} (h : decode (BitVec.ofNat 5 (16 + j.val)) = i) :
    StoresToLatch i j :=
  fun s => ⟨storeOut j s, h ▸ exec_decode_storeOut j s, storeOut_spec j s⟩

/-- Settles O8: operand 0 selects latch 0. -/
theorem storeOutputLatch0 : Obligations.StoreOutputLatch0 :=
  ⟨rfl, storesToLatch_of_decode 0 rfl⟩

/-- Settles O9: operand 1 selects latch 1. -/
theorem storeOutputLatch1 : Obligations.StoreOutputLatch1 :=
  ⟨rfl, storesToLatch_of_decode 1 rfl⟩

/-! ### The bank switch -/

/-- The word with the value 18 + b is the switch to bank b (R92): its operand is b + 2. -/
theorem exec_decode_storeBank (b : Bank) (s : State) :
    exec (decode (BitVec.ofNat 5 (18 + b.val))) s = .next (switchBank b s) := by
  fin_cases b <;> rfl

/-- The instruction that bank b's word decodes to switches to that bank, from any state. -/
theorem switchesToBank_of_decode (b : Bank) {i : Instr} (h : decode (BitVec.ofNat 5 (18 + b.val)) = i) :
    SwitchesToBank i b.val := by
  intro s
  obtain ⟨hbank, hframe⟩ := switchBank_spec b s
  exact ⟨switchBank b s, h ▸ exec_decode_storeBank b s, congrArg Fin.val hbank, hframe⟩

/-- Settles O10: each of the five words is that of its bank. -/
theorem storeBankSwitch : Obligations.StoreBankSwitch :=
  ⟨⟨rfl, switchesToBank_of_decode 0 rfl⟩, ⟨rfl, switchesToBank_of_decode 1 rfl⟩, ⟨rfl, switchesToBank_of_decode 2 rfl⟩,
    ⟨rfl, switchesToBank_of_decode 3 rfl⟩, ⟨rfl, switchesToBank_of_decode 4 rfl⟩⟩

/-! ### The data cell -/

theorem exec_storeRam (s : State) : exec .storeRam s = .next (storeRam s) := rfl

/-- Settles O11: operand 7 selects the data cell. -/
theorem storeRamCell : Obligations.StoreRamCell :=
  ⟨rfl, fun s => ⟨storeRam s, exec_storeRam s, storeRam_spec s⟩⟩

end Sys2Proof.Machine
end

section
/-! JUMP (spec/44_jump.md R100): the two operations its test of the accumulator chooses between, each with its frame. -/

namespace Sys2Proof.Machine

theorem goTo_spec (k : Line) (s : State) :
    (goTo k s).bank = s.bank ∧ (goTo k s).pc = k ∧ (goTo k s).acc = s.acc ∧ (goTo k s).ram = s.ram ∧
      SameOutputs s (goTo k s) ∧ SameSurroundings s (goTo k s) :=
  ⟨rfl, rfl, rfl, rfl, fun _ => rfl, fun _ => rfl, fun _ _ => rfl, rfl, rfl, rfl, rfl⟩

theorem advance_spec (s : State) :
    NextLine s (advance s) ∧ (advance s).acc = s.acc ∧ (advance s).ram = s.ram ∧
      SameOutputs s (advance s) ∧ SameSurroundings s (advance s) :=
  ⟨nextLine_of_pc rfl rfl, rfl, rfl, fun _ => rfl, fun _ => rfl, fun _ _ => rfl, rfl, rfl, rfl, rfl⟩

/-- Settles O12: a taken jump goes to its line, one that is not taken advances. -/
theorem jumpOnZero : Obligations.JumpOnZero := by
  refine fun k => ⟨decode_jump k, fun s => ?_⟩
  by_cases hacc : s.acc = 0
  · obtain ⟨hbank, hpc, hframe⟩ := goTo_spec k s
    have hne : s.acc ≠ 1 := by simp [hacc]
    exact ⟨goTo k s, execJump_taken k hacc, hbank, fun _ => hpc, fun h => absurd h hne, hframe⟩
  · obtain ⟨⟨hpc, hbank⟩, hframe⟩ := advance_spec s
    exact ⟨advance s, execJump_fallsThrough k hacc, hbank, fun h => absurd h hacc, fun _ => hpc, hframe⟩

end Sys2Proof.Machine
end

section
/-! The writer matrix (spec/10_state.md R27): which words write each register, and which calls of the environment write each piece of
state. -/

namespace Sys2Proof

theorem opcodeOf_append_operandOf : ∀ w : Word, opcodeOf w ++ operandOf w = w := by decide

/-- A decoded instruction has one word (R50): its fields are the word's. -/
theorem eq_encode_of_decode {w : Word} {i : Instr} (h : decode w = i) : w = encode i := by
  rw [← h, encode, decode_opcode, decode_operand, opcodeOf_append_operandOf]

namespace Machine

/-! ### Which words write each register -/

/-- The operation each word performs, with the words of each: a load of a bit, a STORE to a latch, a bank switch, a STORE to the data
cell, and the two operations a JUMP chooses between. -/
theorem exec_decode_cases {w : Word} {s t : State} (h : exec (decode w) s = .next t) :
    ((opcodeNat w = 0 ∨ opcodeNat w = 1) ∧ ∃ v, t = loadBit v s) ∨
    (∃ j : OutputLatch, w = BitVec.ofNat 5 (16 + j.val) ∧ t = storeOut j s) ∨
    (isBankSwitch w ∧ ∃ b, t = switchBank b s) ∨
    (w = 0b10111#5 ∧ t = storeRam s) ∨
    t = advance s ∨
    ∃ k, t = goTo k s := by
  generalize hi : decode w = i at h
  have hop := opcodeNat_of_decode hi
  have hk := operandNat_of_decode hi
  have hw := eq_encode_of_decode hi
  cases i
  case storeOut0 => cases h; exact .inr (.inl ⟨0, hw, rfl⟩)
  case storeOut1 => cases h; exact .inr (.inl ⟨1, hw, rfl⟩)
  case storeBank0 | storeBank1 | storeBank2 | storeBank3 | storeBank4 =>
    cases h
    have hs : isBankSwitch w := by simp [isBankSwitch, hop, hk, Instr.opcode, Instr.operand]
    exact .inr (.inr (.inl ⟨hs, _, rfl⟩))
  case storeRam => cases h; exact .inr (.inr (.inr (.inl ⟨hw, rfl⟩)))
  case jump k =>
    by_cases hacc : s.acc = 0
    · rw [execJump_taken k hacc] at h
      cases h
      exact .inr (.inr (.inr (.inr (.inr ⟨k, rfl⟩))))
    · rw [execJump_fallsThrough k hacc] at h
      cases h
      exact .inr (.inr (.inr (.inr (.inl rfl))))
  case nor x => cases h; exact .inl ⟨.inr hop, _, rfl⟩
  -- the eight forms of LOAD
  all_goals
    cases h
    exact .inl ⟨.inl hop, _, rfl⟩

theorem opcodeNat_of_exec_acc_ne {w : Word} {s t : State} (h : exec (decode w) s = .next t) (hne : t.acc ≠ s.acc) :
    opcodeNat w = 0 ∨ opcodeNat w = 1 := by
  rcases exec_decode_cases h with ⟨hop, -⟩ | ⟨_, -, rfl⟩ | ⟨-, _, rfl⟩ | ⟨-, rfl⟩ | rfl | ⟨_, rfl⟩
  · exact hop
  all_goals exact absurd rfl hne

theorem eq_storeRam_of_exec_ram_ne {w : Word} {s t : State} (h : exec (decode w) s = .next t) (hne : t.ram ≠ s.ram) :
    w = 0b10111#5 := by
  rcases exec_decode_cases h with ⟨-, _, rfl⟩ | ⟨_, -, rfl⟩ | ⟨-, _, rfl⟩ | ⟨hw, -⟩ | rfl | ⟨_, rfl⟩
  case inr.inr.inr.inl => exact hw
  all_goals exact absurd rfl hne

theorem isBankSwitch_of_exec_bank_ne {w : Word} {s t : State} (h : exec (decode w) s = .next t) (hne : t.bank ≠ s.bank) :
    isBankSwitch w := by
  rcases exec_decode_cases h with ⟨-, _, rfl⟩ | ⟨_, -, rfl⟩ | ⟨hs, -⟩ | ⟨-, rfl⟩ | rfl | ⟨_, rfl⟩
  case inr.inr.inl => exact hs
  all_goals exact absurd rfl hne

/-- A latch is written by its own STORE: the STORE to the other latch keeps it (R90, R91). -/
theorem eq_storeOut_of_exec_readOut_ne {w : Word} {s t : State} {j : OutputLatch} (h : exec (decode w) s = .next t)
    (hne : readOut j t ≠ readOut j s) : w = BitVec.ofNat 5 (16 + j.val) := by
  rcases exec_decode_cases h with ⟨-, _, rfl⟩ | ⟨i, hw, rfl⟩ | ⟨-, _, rfl⟩ | ⟨-, rfl⟩ | rfl | ⟨_, rfl⟩
  case inr.inl =>
    by_cases hij : j = i
    · rw [hij, hw]
    · exact absurd (readOut_setOut_other s.acc s hij) hne
  all_goals exact absurd rfl hne

/-! ### Which calls write -/

theorem Executes.imp {c : HostCall} {s : State} {p q : Word → Prop} (hpq : ∀ w, p w → q w) (h : Executes c s p) :
    Executes c s q := by
  obtain ⟨hrun, hstep, hp⟩ := h
  exact ⟨hrun, hstep, hpq _ hp⟩

/-- The five ways of a call with the state: keep it, reset and load it, turn it off, set an input, execute the fetched word and append
its entry. -/
theorem hostCall_writes {c : HostCall} {s t : State} {r : HostReply} (h : hostCall c s = .next (t, r)) :
    t = s ∨
    (Resets c s ∧ ∃ m, t = setRunning true (setImem m (resetRegs s))) ∨
    (c = .powerOff ∧ t = powerOff s) ∨
    (∃ i v, c = .setInput i v ∧ t = setInput i v s) ∨
    ∃ n u e, Executes c s (fun w => exec (decode w) (setTick n s) = .next u) ∧ t = record e u := by
  rcases hostCall_cases h with ⟨_, -, -, rfl⟩ | ⟨x, m, hc, hoff, -, ht⟩ | hoff | hin | ⟨n, hc, hrun, hstep⟩ |
    ⟨_, -, -, rfl⟩ | ⟨-, rfl⟩
  · exact .inl rfl
  · exact .inr (.inl ⟨⟨hoff, x, hc⟩, m, ht⟩)
  · exact .inr (.inr (.inl hoff))
  · exact .inr (.inr (.inr (.inl hin)))
  · rcases step_cases hstep with ⟨hoff, -⟩ | ⟨-, u, hu, ht⟩
    · exact absurd (hrun.symm.trans hoff) (by decide)
    · exact .inr (.inr (.inr (.inr ⟨n, u, _, ⟨hrun, ⟨n, hc⟩, hu⟩, ht⟩)))
  · exact .inl rfl
  · exact .inl rfl

/-- A register is written by a reset or by the execution of a word that writes it: turning off and setting an input keep all
registers, and so does appending the trace entry. -/
theorem register_writer {α : Type} {f : Regs → α} {p : Word → Prop}
    (hexec : ∀ {w : Word} {s u : State}, exec (decode w) s = .next u → f (regsOf u) ≠ f (regsOf s) → p w)
    {c : HostCall} {s t : State} {r : HostReply} (h : hostCall c s = .next (t, r)) (hne : f (regsOf t) ≠ f (regsOf s)) :
    Executes c s p ∨ Resets c s := by
  rcases hostCall_writes h with rfl | ⟨hreset, -⟩ | ⟨-, rfl⟩ | ⟨_, _, -, rfl⟩ | ⟨n, u, e, hex, rfl⟩
  · exact absurd rfl hne
  · exact .inr hreset
  · exact absurd rfl hne
  · exact absurd rfl hne
  · exact .inl (hex.imp fun _ hu => hexec (s := setTick n s) (u := u) hu hne)

theorem input_writer {c : HostCall} {s t : State} {r : HostReply} (h : hostCall c s = .next (t, r)) {k : InputLine}
    (hne : readInput k t ≠ readInput k s) : ∃ v, c = .setInput k v := by
  rcases hostCall_writes h with rfl | ⟨-, m, rfl⟩ | ⟨-, rfl⟩ | ⟨i, v, hc, rfl⟩ | ⟨n, u, e, ⟨-, -, hu⟩, rfl⟩
  · exact absurd rfl hne
  · exact absurd rfl hne
  · exact absurd rfl hne
  · by_cases hk : k = i
    · exact ⟨v, hk ▸ hc⟩
    · exact absurd (readInput_setInput_other v s hk) hne
  · obtain ⟨hins, -⟩ := exec_frame hu
    exact absurd (by simp [readInput, hins]) hne

theorem running_writer {c : HostCall} {s t : State} {r : HostReply} (h : hostCall c s = .next (t, r))
    (hne : t.running ≠ s.running) :
    (∃ x, c = .powerOn x) ∧ t.running = true ∨ c = .powerOff ∧ t.running = false := by
  rcases hostCall_writes h with rfl | ⟨⟨-, hc⟩, m, rfl⟩ | ⟨hc, rfl⟩ | ⟨_, _, -, rfl⟩ | ⟨n, u, e, ⟨-, -, hu⟩, rfl⟩
  · exact absurd rfl hne
  · exact .inl ⟨hc, rfl⟩
  · exact .inr ⟨hc, rfl⟩
  · exact absurd rfl hne
  · obtain ⟨-, -, hrunning, -⟩ := exec_frame hu
    exact absurd hrunning hne

theorem imem_writer {c : HostCall} {s t : State} {r : HostReply} (h : hostCall c s = .next (t, r)) {b : Bank} {l : Line}
    (hne : t.imem.read b l ≠ s.imem.read b l) : Resets c s := by
  rcases hostCall_writes h with rfl | ⟨hreset, -⟩ | ⟨-, rfl⟩ | ⟨_, _, -, rfl⟩ | ⟨n, u, e, ⟨-, -, hu⟩, rfl⟩
  · exact absurd rfl hne
  · exact hreset
  · exact absurd rfl hne
  · exact absurd rfl hne
  · obtain ⟨-, himem, -⟩ := exec_frame hu
    exact absurd (by simp [himem]) hne

theorem trace_writer {c : HostCall} {s t : State} {r : HostReply} (h : hostCall c s = .next (t, r))
    (hne : t.history ≠ s.history ∨ t.view ≠ s.view) :
    Executes c s (fun _ => True) ∧ (∃ e, t.history = s.history ++ [.entry e]) ∨
      Resets c s ∧ t.history = [.sentinel] ∧ t.view = [.sentinel] := by
  rcases hostCall_writes h with rfl | ⟨hreset, m, rfl⟩ | ⟨-, rfl⟩ | ⟨_, _, -, rfl⟩ | ⟨n, u, e, hex, rfl⟩
  · simp at hne
  · exact .inr ⟨hreset, rfl, rfl⟩
  · simp [powerOff] at hne
  · simp at hne
  · have ⟨_, _, hu⟩ := hex
    obtain ⟨-, -, -, hhistory, -⟩ := exec_frame hu
    exact .inl ⟨hex.imp fun _ _ => trivial, e, by simp [hhistory]⟩

/-- Settles O33: one row of the matrix per piece of state. -/
theorem writerMatrix : Obligations.WriterMatrix := by
  intro c s t r h
  exact ⟨register_writer (f := Regs.acc) opcodeNat_of_exec_acc_ne h,
    register_writer (f := Regs.ram) eq_storeRam_of_exec_ram_ne h,
    register_writer (f := Regs.bank) isBankSwitch_of_exec_bank_ne h,
    register_writer (f := Regs.pc) (fun _ _ => trivial) h,
    register_writer (f := fun g => g.outs[0]) (eq_storeOut_of_exec_readOut_ne (j := 0)) h,
    register_writer (f := fun g => g.outs[1]) (eq_storeOut_of_exec_readOut_ne (j := 1)) h,
    fun _ => input_writer h,
    running_writer h,
    fun ⟨_, _, hne⟩ => imem_writer h hne,
    trace_writer h⟩

end Machine

end Sys2Proof
end

section
/-! `reset()` (spec/70_reset_and_hazards.md R135): what the input lines and the output latches read after it. -/

namespace Sys2Proof.Machine

/-- The reset clears both latches at once; a read selects one of them. -/
@[simp] theorem readOut_resetRegs (j : OutputLatch) (s : State) : readOut j (resetRegs s) = 0 := by
  simp only [readOut, resetRegs_outs, Fin.getElem_fin, Vector.getElem_replicate]

/-- The inputs are the only registers that a reset leaves (R135). -/
@[simp] theorem readInput_resetRegs (k : InputLine) (s : State) : readInput k (resetRegs s) = readInput k s := by
  simp only [readInput, resetRegs_ins]

/-- Settles O24: each register is cleared, the ports read as above, instruction memory stays (R24), and both containers
of the trace are the sentinel trace. -/
theorem resetZeroesRegisters : Obligations.ResetZeroesRegisters :=
  fun s => ⟨resetRegs_acc s, resetRegs_ram s, resetRegs_bank s, resetRegs_pc s, fun j => readOut_resetRegs j s,
    fun k => readInput_resetRegs k s, fun b l => by rw [resetRegs_imem], resetRegs_history s, resetRegs_view s⟩

end Sys2Proof.Machine
end

section
/-! Every instruction plays its effect: it does to the machine what its trace entry says (spec/40_cycle.md R70, R75). What an instruction
reads stands in `effectOf`, what it writes in `applyEffect`. -/

namespace Sys2Proof.Machine

/-- What an effect, given as data, does to the machine. -/
def applyEffect : Effect → State → State
  | .loadIn _ v, s | .loadRam v, s | .nor v, s => loadBit v s
  | .storeOut j v, s => advance (setOut j v s)
  | .storeBank b, s => switchBank b s
  | .storeRam v, s => advance (setRam v s)
  | .jump k taken, s => if taken then goTo k s else advance s

/-- An instruction does what its effect says, and nothing else. -/
theorem exec_eq_applyEffect (i : Instr) (s : State) : exec i s = .next (applyEffect (effectOf i s) s) := by
  cases i
  case jump k =>
    by_cases hacc : s.acc = 0
    · rw [execJump_taken k hacc, effectOf, (jumpTaken_iff s).mpr hacc]
      rfl
    · rw [execJump_fallsThrough k hacc, effectOf, Bool.eq_false_iff.mpr (mt (jumpTaken_iff s).mp hacc)]
      rfl
  all_goals rfl

/-- The step of a running machine, as one state. -/
theorem step_running {s : State} (h : s.running = true) :
    step s = .next (record (entryOf s) (applyEffect (entryOf s).effect s)) :=
  step_on h (exec_eq_applyEffect (fetchInstr s) s)

/-! ### Effects and the trace entry -/

theorem applyEffect_history (x : Effect) (s : State) : (applyEffect x s).history = s.history := by
  cases x with
  | jump k taken => cases taken <;> rfl
  | _ => rfl

/-- A step of a running machine appends the entry of the state it starts in (R75). -/
theorem step_appends_entryOf {s t : State} (hon : s.running = true) (h : step s = .next t) :
    t.history = s.history ++ [.entry (entryOf s)] := by
  rw [step_running hon] at h
  cases h
  rw [record_history, applyEffect_history]

/-! ### Effects beside the writes of a step and of the environment -/

/-- The trace entry of a step may be appended before the effect or after it. -/
theorem applyEffect_record (x : Effect) (e : TraceEntry) (s : State) :
    applyEffect x (record e s) = record e (applyEffect x s) := by
  cases x with
  | jump k taken => cases taken <;> rfl
  | _ => rfl

/-- No effect reads or writes an input line: the value a LOAD moves is part of the effect. -/
theorem applyEffect_setInput (x : Effect) (k : InputLine) (v : Bit) (s : State) :
    applyEffect x (setInput k v s) = setInput k v (applyEffect x s) := by
  cases x with
  | jump k taken => cases taken <;> rfl
  | _ => rfl

theorem effectOf_record (i : Instr) (e : TraceEntry) (s : State) : effectOf i (record e s) = effectOf i s := by
  cases i <;> rfl

/-- No instruction reads the trace (R23). -/
theorem exec_record {i : Instr} {s t : State} (e : TraceEntry) (h : exec i s = .next t) :
    exec i (record e s) = .next (record e t) := by
  rw [exec_eq_applyEffect] at h ⊢
  cases h
  rw [effectOf_record, applyEffect_record]

end Sys2Proof.Machine
end

section
/-! Runs of steps: they complete, and what they never write (spec/40_cycle.md R76; spec/10_state.md R27). -/

namespace Sys2Proof.Machine

/-- Any number of steps completes, on or off (R76). -/
theorem run_next (n : Nat) (s : State) : ∃ t, core.run n s = .next t := by
  induction n generalizing s with
  | zero => exact ⟨s, rfl⟩
  | succ n ih =>
    obtain ⟨u, hu⟩ := step_next s
    rw [run_succ n hu]
    exact ih u

/-- No run of steps writes the inputs, instruction memory or the power state (R15, R17, R31). -/
theorem run_frame {n : Nat} {s t : State} (h : core.run n s = .next t) :
    t.ins = s.ins ∧ t.imem = s.imem ∧ t.running = s.running := by
  induction n generalizing s with
  | zero => cases h; exact ⟨rfl, rfl, rfl⟩
  | succ n ih =>
    obtain ⟨u, hu, ht⟩ := run_cons h
    obtain ⟨hins, himem, hrun, -⟩ := step_frame hu
    obtain ⟨hins', himem', hrun'⟩ := ih ht
    exact ⟨hins'.trans hins, himem'.trans himem, hrun'.trans hrun⟩

end Sys2Proof.Machine
end

section
/-! What no program can read has no influence (spec/10_state.md R16, R23, R26). -/

namespace Sys2Proof.Machine

theorem fetchInstr_of_sameCore {s t : State} (h : SameCore s t) : fetchInstr t = fetchInstr s := by
  obtain ⟨-, -, hbank, hpc, -, himem, -⟩ := h
  simp only [fetchInstr, fetchWord, hbank, hpc, himem]

/-- An instruction reads the accumulator, the data cell and the input lines, all of which agree. -/
theorem effectOf_of_sameCore {s t : State} (h : SameCore s t) (i : Instr) : effectOf i t = effectOf i s := by
  obtain ⟨hacc, hram, -, -, hins, -, -⟩ := h
  cases i <;> simp only [effectOf, readInput, readRam, jumpTaken, hacc, hram, hins]

theorem sameCore_applyEffect {s t : State} (h : SameCore s t) (x : Effect) :
    SameCore (applyEffect x s) (applyEffect x t) := by
  obtain ⟨hacc, hram, hbank, hpc, hins, himem, hrun⟩ := h
  have hnext : t.pc + 1 = s.pc + 1 := congrArg (· + 1) hpc
  cases x with
  | loadIn _ v | loadRam v | nor v => exact ⟨rfl, hram, hbank, hnext, hins, himem, hrun⟩
  | storeOut j v => exact ⟨hacc, hram, hbank, hnext, hins, himem, hrun⟩
  | storeBank b => exact ⟨hacc, hram, rfl, rfl, hins, himem, hrun⟩
  | storeRam v => exact ⟨hacc, rfl, hbank, hnext, hins, himem, hrun⟩
  | jump k taken =>
    cases taken with
    | false => exact ⟨hacc, hram, hbank, hnext, hins, himem, hrun⟩
    | true => exact ⟨hacc, hram, hbank, rfl, hins, himem, hrun⟩

theorem sameCore_record {s t : State} (h : SameCore s t) (e e' : TraceEntry) : SameCore (record e s) (record e' t) := h

/-- A step keeps two machines in agreement: both fetch the same instruction and it has the same effect on both. -/
theorem sameCore_step {s s' t t' : State} (h : SameCore s s') (ht : step s = .next t) (ht' : step s' = .next t') :
    SameCore t t' := by
  have ⟨_, _, _, _, _, _, hrun⟩ := h
  rcases step_cases ht with ⟨hoff, rfl⟩ | ⟨hon, u, hu, rfl⟩
  · rw [step_off (hrun.trans hoff)] at ht'
    cases ht'
    exact h
  · rw [step_running (hrun.trans hon)] at ht'
    rw [exec_eq_applyEffect] at hu
    cases ht'
    cases hu
    have heffect : (entryOf s').effect = effectOf (fetchInstr s) s := by
      rw [entryOf, fetchInstr_of_sameCore h, effectOf_of_sameCore h]
    rw [heffect]
    exact sameCore_record (sameCore_applyEffect h _) _ _

/-- Agreement outlasts any number of steps of both machines. -/
theorem sameCore_run {n : Nat} {s s' t t' : State} (h : SameCore s s') (ht : core.run n s = .next t)
    (ht' : core.run n s' = .next t') : SameCore t t' := by
  induction n generalizing s s' with
  | zero => cases ht; cases ht'; exact h
  | succ n ih =>
    obtain ⟨u, hu, hrest⟩ := run_cons ht
    obtain ⟨u', hu', hrest'⟩ := run_cons ht'
    exact ih (sameCore_step h hu hu') hrest hrest'

/-- Settles O22: both runs complete, and agreement outlasts them. -/
theorem outputsAndTraceHaveNoInfluence : Obligations.OutputsAndTraceHaveNoInfluence := by
  intro n s s' h
  obtain ⟨t, ht⟩ := run_next n s
  obtain ⟨t', ht'⟩ := run_next n s'
  exact ⟨t, t', ht, ht', sameCore_run h ht ht'⟩

end Sys2Proof.Machine
end

section
/-! What every step and every call of the environment keeps of the trace (spec/60_exceptions.md R126, R129; spec/40_cycle.md R75). -/

namespace Sys2Proof.Machine

/-- The reset state is what a `power_on` leaves that loads no line (R136, R139). -/
theorem reset_eq_powerOn : State.reset = setRunning true (setImem IMem.zero (resetRegs State.construction)) := rfl

/-- An invariant of steps is one of all calls, where a reset establishes it and the writes of the environment keep it (R132). -/
theorem hostCall_invariant {P : State → Prop} (hstep : ∀ {s t}, P s → step s = .next t → P t)
    (hreset : ∀ s m, P (setRunning true (setImem m (resetRegs s)))) (hoff : ∀ {s}, P s → P (powerOff s))
    (hinput : ∀ {s} i v, P s → P (setInput i v s)) (htick : ∀ {s} n, P s → P (setTick n s))
    {c : HostCall} {s t : State} {r : HostReply} (hP : P s) (h : hostCall c s = .next (t, r)) : P t := by
  rcases hostCall_cases h with ⟨_, -, -, rfl⟩ | ⟨_, m, -, -, -, rfl⟩ | ⟨-, rfl⟩ | ⟨i, v, -, rfl⟩ | ⟨n, -, -, hs⟩ |
    ⟨_, -, -, rfl⟩ | ⟨-, rfl⟩
  · exact hP
  · exact hreset s m
  · exact hoff hP
  · exact hinput i v hP
  · exact hstep (htick n hP) hs
  · exact hP
  · exact hP

/-! ### The bounded view -/

theorem traceKept_powerOn (s : State) (m : IMem) : TraceKept (setRunning true (setImem m (resetRegs s))) :=
  ⟨rfl, [], rfl⟩

/-- An append keeps the view the front of the reversed history: the newest item enters at the front, and what is dropped is beyond the
20th (R126). -/
theorem traceKept_record {s : State} (h : TraceKept s) (e : TraceEntry) : TraceKept (record e s) := by
  obtain ⟨hview, es, hhistory⟩ := h
  refine ⟨?_, es ++ [e], by simp [hhistory]⟩
  have hbound : s.view.length ≤ Config.traceView := by
    rw [hview]
    exact List.length_take_le 20 _
  calc (record e s).view = (TraceItem.entry e :: s.view).take 20 := pushView_eq_take _ hbound
    _ = (TraceItem.entry e :: s.history.reverse).take 20 := by simp [hview, List.take_take]
    _ = (record e s).history.reverse.take 20 := by rw [record_history, List.reverse_concat']

theorem traceKept_step {s t : State} (hk : TraceKept s) (h : step s = .next t) : TraceKept t := by
  rcases step_cases h with ⟨-, rfl⟩ | ⟨-, u, hu, rfl⟩
  · exact hk
  · obtain ⟨-, -, -, hhistory, hview, -⟩ := exec_frame hu
    have hku : TraceKept u := by simpa only [TraceKept, hhistory, hview] using hk
    exact traceKept_record hku _

/-- Settles O34: an append keeps the form, a reset establishes it, and no other call touches the trace. -/
theorem eventsKeepBoundedView : Obligations.EventsKeepBoundedView :=
  ⟨fun _ _ => traceKept_step,
    fun _ _ _ _ => hostCall_invariant traceKept_step traceKept_powerOn id (fun _ _ => id) (fun _ => id)⟩

/-! ### The trace explains the registers -/

theorem traceExplains_powerOn (s : State) (m : IMem) : TraceExplains (setRunning true (setImem m (resetRegs s))) := rfl

/-- An entry played on the registers is its effect on the machine, where the entry names the line it was fetched from. -/
theorem playItem_entry (e : TraceEntry) {s : State} (h : e.line = s.pc) :
    playItem (regsOf s) (.entry e) = regsOf (applyEffect e.effect s) := by
  obtain ⟨tick, bank, line, opcode, operand, effect⟩ := e
  obtain rfl : line = s.pc := h
  cases effect with
  | jump k taken => cases taken <;> rfl
  | _ => rfl

theorem traceExplains_step {s t : State} (hx : TraceExplains s) (h : step s = .next t) : TraceExplains t := by
  cases hrun : s.running with
  | false =>
    rw [step_off hrun] at h
    cases h
    exact hx
  | true =>
    rw [step_running hrun] at h
    cases h
    rw [TraceExplains, record_history, applyEffect_history, List.foldl_concat, hx]
    exact playItem_entry _ rfl

/-- Settles O35: a step's entry is its effect, a reset clears registers and trace alike, and no other call writes either. -/
theorem eventsKeepTraceExplainingRegisters : Obligations.EventsKeepTraceExplainingRegisters :=
  ⟨fun _ _ => traceExplains_step,
    fun _ _ _ _ => hostCall_invariant traceExplains_step traceExplains_powerOn id (fun _ _ => id) (fun _ => id)⟩

/-- Settles O36: the reset state is one that a `power_on` leaves. -/
theorem traceInvariantsHoldAtReset : Obligations.TraceInvariantsHoldAtReset := by
  unfold Obligations.TraceInvariantsHoldAtReset
  rw [reset_eq_powerOn]
  exact ⟨traceKept_powerOn _ _, traceExplains_powerOn _ _⟩

end Sys2Proof.Machine
end

section
/-! The loader on a line of each kind (spec/70_reset_and_hazards.md R139 to R145). -/

namespace Sys2Proof.Machine

/-- The encoded line of a word stores it in its cell, whatever trailing text does not go on with the bits (R55, R57, R141). -/
theorem loadLine_encodeLine (b : Bank) (l : Line) (w : Word) {x : Text} (h : bitString x = []) (m : IMem) :
    loadLine (scanLine (encodeLine b l w ++ x)) m = .ok (m.write b l w) := by
  have haddr : b.val < 5 ∧ l.toNat < 8 := ⟨b.isLt, l.isLt⟩
  have hvalue : w.toNat < Config.wordValues := w.isLt
  rw [scanLine_encodeLine b l w h]
  simp only [loadLine, haddr, and_self, dif_pos, hvalue, if_pos, BitVec.ofNat_toNat, BitVec.setWidth_eq]

theorem addressed_iff (bd ld : Fin 10) : addressed bd ld = true ↔ bd.val < 5 ∧ ld.val < 8 := by
  rw [addressed, Bool.and_eq_true, decide_eq_true_iff, decide_eq_true_iff]
  rfl

theorem loadLine_of_storesNothing {ln : SourceLine} (m : IMem) (h : storesNothing ln) : loadLine ln m = .ok m := by
  cases ln with
  | instruction bd ld v =>
    rcases h with hout | rfl
    · have hout : ¬ (bd.val < 5 ∧ ld.val < 8) := by simp [← addressed_iff, hout]
      simp only [loadLine, dif_neg hout]
    · simp only [loadLine, dite_eq_ite, ite_self]
  | nearMiss => exact h.elim
  | nonMatching => rfl

/-- The loader accepts exactly the well-formed lines (R60, R62). -/
theorem loadLine_ok_iff (ln : SourceLine) (m : IMem) : (∃ m', loadLine ln m = .ok m') ↔ ln.wellFormed = true := by
  cases ln with
  | instruction bd ld v =>
    cases v with
    | none => exact iff_of_true ⟨m, loadLine_of_storesNothing m (ln := .instruction bd ld none) (.inr rfl)⟩ rfl
    | some v =>
      cases haddr : addressed bd ld with
      | false =>
        have hwf : (SourceLine.instruction bd ld (some v)).wellFormed = true := by simp [SourceLine.wellFormed, haddr]
        exact iff_of_true ⟨m, loadLine_of_storesNothing m (ln := .instruction bd ld (some v)) (.inl haddr)⟩ hwf
      | true =>
        have hin := (addressed_iff bd ld).mp haddr
        -- in range, the loader and the check both ask whether the value fits a word
        by_cases hv : v < Config.wordValues <;> simp [loadLine, SourceLine.wellFormed, haddr, hin, hv]
  | nearMiss => simp [loadLine, SourceLine.wellFormed]
  | nonMatching => simp [loadLine, SourceLine.wellFormed]

/-- The names under which the loader refuses a line (D5, D6). -/
theorem loadLine_error {ln : SourceLine} {m : IMem} {r : Refusal} (h : loadLine ln m = .error r) :
    r = .wideWord ∨ r = .lineSyntax := by
  cases ln with
  | instruction bd ld v =>
    simp only [loadLine] at h
    split at h
    · cases v with
      | none => cases h
      | some v =>
        simp only at h
        split at h
        · cases h
        · cases h; exact .inl rfl
    · cases h
  | nearMiss => cases h; exact .inr rfl
  | nonMatching => cases h

/-! ### The lines of a text, one after another -/

theorem loadLines_cons_ok {ln : SourceLine} {m m' : IMem} (h : loadLine ln m = .ok m') (rest : List SourceLine) :
    loadLines (ln :: rest) m = loadLines rest m' := by
  simp only [loadLines, h]

theorem loadLines_cons_error {ln : SourceLine} {m : IMem} {r : Refusal} (h : loadLine ln m = .error r)
    (rest : List SourceLine) : loadLines (ln :: rest) m = .error r := by
  simp only [loadLines, h]

theorem loadLines_ok_iff (lns : List SourceLine) (m : IMem) :
    (∃ m', loadLines lns m = .ok m') ↔ lns.all SourceLine.wellFormed = true := by
  induction lns generalizing m with
  | nil => simp [loadLines]
  | cons ln rest ih =>
    rw [List.all_cons, Bool.and_eq_true, ← loadLine_ok_iff ln m]
    cases h : loadLine ln m with
    | ok m' => simp [loadLines_cons_ok h, ih m']
    | error r => simp [loadLines_cons_error h]

theorem loadLines_error {lns : List SourceLine} {m : IMem} {r : Refusal} (h : loadLines lns m = .error r) :
    r = .wideWord ∨ r = .lineSyntax := by
  induction lns generalizing m with
  | nil => cases h
  | cons ln rest ih =>
    cases hln : loadLine ln m with
    | ok m' => exact ih ((loadLines_cons_ok hln rest).symm.trans h)
    | error r' =>
      rw [loadLines_cons_error hln] at h
      cases h
      exact loadLine_error hln

/-- Lines that store elsewhere leave a cell as it was (R141). -/
theorem read_of_loadLines {lns : List SourceLine} {m m' : IMem} {b : Bank} {l : Line} (h : loadLines lns m = .ok m')
    (hno : ∀ ln ∈ lns, ¬ storesAt b l ln) : m'.read b l = m.read b l := by
  induction lns generalizing m with
  | nil => cases h; rfl
  | cons ln rest ih =>
    obtain ⟨hln, hrest⟩ := List.forall_mem_cons.mp hno
    cases hload : loadLine ln m with
    | error r => rw [loadLines_cons_error hload] at h; cases h
    | ok m₁ =>
      rw [loadLines_cons_ok hload] at h
      rw [ih h hrest]
      rcases loadLine_cases hload with ⟨-, rfl⟩ | ⟨b', l', w, hstores, rfl⟩
      · rfl
      · refine m.read_write_other w fun heq => hln ?_
        obtain ⟨rfl, rfl⟩ := Prod.mk.inj heq
        exact hstores

end Sys2Proof.Machine
end

section
/-! Every instruction memory is loaded back from its program text (spec/30_encoding.md R55 to R59, R140, R141). -/

namespace Sys2Proof.Machine

/-- The addresses of the 40 cells, in the order of their lines in a program text. -/
def cellAddresses : List (Bank × Line) := banks ×ˢ bankLines

theorem mem_cellAddresses (b : Bank) (l : Line) : (b, l) ∈ cellAddresses := by
  have hb : ∀ b : Bank, b ∈ banks := by decide
  have hl : ∀ l : Line, l ∈ bankLines := by decide
  exact List.mem_product.mpr ⟨hb b, hl l⟩

/-- The program text of the cells at the given addresses. -/
def encodeCells (m : IMem) (as : List (Bank × Line)) : Text :=
  as.flatMap fun a => encodeLine a.1 a.2 (m.read a.1 a.2) ++ ['\n']

theorem encodeProgram_eq_encodeCells (m : IMem) : encodeProgram m = encodeCells m cellAddresses := by
  simp only [encodeProgram, encodeCells, cellAddresses, SProd.sprod, List.product, List.flatMap_assoc, List.flatMap_map]

/-- A program text is scanned line by line, and nothing follows its last LF. -/
theorem scanText_encodeCells_cons (m : IMem) (a : Bank × Line) (as : List (Bank × Line)) :
    scanText (encodeCells m (a :: as)) = scanLine (encodeLine a.1 a.2 (m.read a.1 a.2)) :: scanText (encodeCells m as) := by
  have htext : encodeCells m (a :: as) = encodeLine a.1 a.2 (m.read a.1 a.2) ++ '\n' :: encodeCells m as := by
    simp [encodeCells]
  rw [scanText, htext, splitLines_append_newline, splitLines_of_no_newline (encodeLine_ne_newline _ _ _)]
  rfl

/-- The text of some cells loads over any memory, and gives those cells their words; the others keep theirs. -/
theorem loadLines_encodeCells (m : IMem) (as : List (Bank × Line)) (m₀ : IMem) :
    ∃ m₁, loadLines (scanText (encodeCells m as)) m₀ = .ok m₁ ∧
      ∀ b l, ((b, l) ∈ as → m₁.read b l = m.read b l) ∧ ((b, l) ∉ as → m₁.read b l = m₀.read b l) := by
  induction as generalizing m₀ with
  | nil => exact ⟨m₀, rfl, fun b l => ⟨fun h => absurd h List.not_mem_nil, fun _ => rfl⟩⟩
  | cons a as ih =>
    have hline := loadLine_encodeLine a.1 a.2 (m.read a.1 a.2) (x := []) rfl m₀
    rw [List.append_nil] at hline
    obtain ⟨m₁, hload, hread⟩ := ih (m₀.write a.1 a.2 (m.read a.1 a.2))
    refine ⟨m₁, by rw [scanText_encodeCells_cons, loadLines_cons_ok hline, hload], fun b l => ?_⟩
    obtain ⟨hin, hout⟩ := hread b l
    by_cases hlater : (b, l) ∈ as
    · exact ⟨fun _ => hin hlater, fun h => absurd (List.mem_cons_of_mem a hlater) h⟩
    · by_cases hhere : (b, l) = a
      · subst hhere
        exact ⟨fun _ => by rw [hout hlater, IMem.read_write_same], fun h => absurd List.mem_cons_self h⟩
      · refine ⟨fun h => ?_, fun _ => by rw [hout hlater, IMem.read_write_other _ _ hhere]⟩
        exact absurd ((List.mem_cons.mp h).resolve_left hhere) hlater

/-- Settles O45: every cell has its line in the program text. -/
theorem programTextRoundTrip : Obligations.ProgramTextRoundTrip := by
  intro m
  obtain ⟨m₁, hload, hread⟩ := loadLines_encodeCells m cellAddresses IMem.zero
  have hm : m₁ = m := IMem.ext_read fun b l => (hread b l).1 (mem_cellAddresses b l)
  rw [load, encodeProgram_eq_encodeCells, hload, hm]

end Sys2Proof.Machine
end

section
/-! What a program text loads, line by line (spec/70_reset_and_hazards.md R139 to R145; D5, D6, D17). -/

namespace Sys2Proof.Machine

theorem load_ok_iff (x : Text) : textWellFormed x = true ↔ ∃ m, load x = .ok m :=
  (loadLines_ok_iff (scanText x) IMem.zero).symm

theorem powerOn_refused {s : State} {x : Text} {r : Refusal} (hoff : s.running = false) (h : load x = .error r) :
    hostCall (.powerOn x) s = .refused r := by
  simp [hostCall, powerOn, hoff, h, withReply]

/-- Settles O40: a text is accepted line by line, and the first line that is not gives its refusal's name. -/
theorem loadDefinedOnWellFormedTexts : Obligations.LoadDefinedOnWellFormedTexts := by
  refine fun x => ⟨load_ok_iff x, fun s hoff hbad => ?_⟩
  cases hload : load x with
  | ok m => exact absurd ((load_ok_iff x).mpr ⟨m, hload⟩) (by simp [hbad])
  | error r =>
    rw [powerOn_refused hoff hload]
    exact (loadLines_error hload).imp (congrArg _) (congrArg _)

/-- Settles O41: the load begins with 40 zero words. -/
theorem unaddressedCellsHoldZeroWord : Obligations.UnaddressedCellsHoldZeroWord := by
  intro x m b l hload hno
  rw [read_of_loadLines hload hno, IMem.read_zero]

/-- Settles O42: the last line's store comes after all others. -/
theorem laterLineOverwritesItsCell : Obligations.LaterLineOverwritesItsCell := by
  intro x trailing m b l w hload hline hbits
  have hno : ∀ c ∈ encodeLine b l w ++ trailing, c ≠ '\n' :=
    List.forall_mem_append.mpr ⟨encodeLine_ne_newline b l w, hline⟩
  refine ⟨m.write b l w, ?_, m.read_write_same b l w, fun _ _ => m.read_write_other w⟩
  simp only [load_append_line x hno, hload, loadLine_encodeLine b l w hbits]

/-- Settles O43: the line is loaded last, and leaves the memory or the refusal that stands. -/
theorem lineWithoutStoreChangesNothing : Obligations.LineWithoutStoreChangesNothing := by
  intro x ln hline hnothing
  rw [load_append_line x hline]
  cases load x with
  | ok m => exact loadLine_of_storesNothing m hnothing
  | error r => rfl

end Sys2Proof.Machine
end

section
/-! The value of a bit string (spec/30_encoding.md R56, R59). -/

namespace Sys2Proof

/-- The value depends on the digits alone: what is left of the bit string without its separators. -/
theorem bitsValue_congr {x y : Text} (h : stripSeparators (bitString x) = stripSeparators (bitString y)) :
    bitsValue x = bitsValue y := by
  rw [bitsValue, bitsValue, h]

theorem bitString_append {a : Text} (h : ∀ c ∈ a, isBitChar c = true) (b : Text) : bitString (a ++ b) = a ++ bitString b :=
  List.takeWhile_append_of_pos h

theorem stripSeparators_append (a b : Text) : stripSeparators (a ++ b) = stripSeparators a ++ stripSeparators b :=
  List.filter_append ..

/-- A zero in front doubles nothing. -/
theorem binaryValue_zero_cons (t : Text) : binaryValue ('0' :: t) = binaryValue t := rfl

theorem stripSeparators_bitString_underscore (b : Text) :
    stripSeparators (bitString ('_' :: b)) = stripSeparators (bitString b) := rfl

theorem stripSeparators_bitString_zero (a : Text) :
    stripSeparators (bitString ('0' :: a)) = '0' :: stripSeparators (bitString a) := rfl

/-- Settles O44: an underscore is stripped wherever it stands, and a zero in front adds nothing to the value. -/
theorem bitStringValueIgnoresUnderscoresAndZeros : Obligations.BitStringValueIgnoresUnderscoresAndZeros := by
  refine ⟨fun a b ha => bitsValue_congr ?_, fun a v h => ?_⟩
  · rw [bitString_append ha, bitString_append ha, stripSeparators_append, stripSeparators_append,
      stripSeparators_bitString_underscore]
  · rw [bitsValue] at h ⊢
    rw [stripSeparators_bitString_zero]
    cases hd : stripSeparators (bitString a) with
    | nil => rw [hd] at h; cases h
    | cons d ds => rw [hd] at h; simpa only [binaryValue_zero_cons] using h

end Sys2Proof
end

section
/-! The three forms of the program counter update (spec/40_cycle.md R71, R72; D15). -/

namespace Sys2Proof.Machine

/-- The −1 as three bits, incremented (R72). -/
theorem seven_add_one : (7 : Line) + 1 = 0 := by decide

/-- Three bits hold the preset and the increment that follows: the −1 of a bank switch is 7, which goes on to 0 (R72). -/
theorem exec_pc {i : Instr} {s t : State} (h : exec i s = .next t) : t.pc = presetLine i s + 1 := by
  cases i
  case jump k =>
    by_cases hacc : s.acc = 0
    · rw [execJump_taken k hacc] at h
      cases h
      rw [presetLine, if_pos hacc, sub_add_cancel, goTo_pc]
    · rw [execJump_fallsThrough k hacc] at h
      cases h
      rw [presetLine, if_neg hacc, advance_pc]
  case storeBank0 | storeBank1 | storeBank2 | storeBank3 | storeBank4 =>
    cases h
    exact seven_add_one.symm
  all_goals
    cases h
    rfl

theorem presetLine_add_one_toNat (i : Instr) (s : State) : (presetLine i s + 1).toNat = netPc i s := by
  cases i
  case storeBank0 | storeBank1 | storeBank2 | storeBank3 | storeBank4 => exact congrArg BitVec.toNat seven_add_one
  case jump k =>
    by_cases hacc : s.acc = 0
    · rw [presetLine, netPc, if_pos hacc, if_pos hacc, sub_add_cancel]
    · rw [presetLine, netPc, if_neg hacc, if_neg hacc]
      exact BitVec.toNat_add s.pc 1
  all_goals exact BitVec.toNat_add s.pc 1

/-- The integer preset, incremented modulo 8, is the net effect: `k - 1 + 1` is a line already, and so is the 0 of a bank switch. -/
theorem twoStagePc_eq_netPc (i : Instr) (s : State) : twoStagePc i s = netPc i s := by
  cases i
  case storeBank0 | storeBank1 | storeBank2 | storeBank3 | storeBank4 => rfl
  case jump k =>
    have hk : k.toNat < 8 := k.isLt
    by_cases hacc : s.acc = 0
    · rw [twoStagePc, presetPc, netPc, if_pos hacc, if_pos hacc]
      omega
    · rw [twoStagePc, presetPc, netPc, if_neg hacc, if_neg hacc]
      omega
  all_goals simp [twoStagePc, presetPc, netPc]

/-- Settles O16: the three-bit form is the model's line, and the other two have its value. -/
theorem twoStageAdvanceAgrees : Obligations.TwoStageAdvanceAgrees := by
  intro i s
  obtain ⟨t, ht⟩ := exec_next i s
  have hpc := exec_pc ht
  have hnet : t.pc.toNat = netPc i s := by rw [hpc, presetLine_add_one_toNat]
  exact ⟨t, ht, by rw [twoStagePc_eq_netPc, hnet], hpc, hnet⟩

end Sys2Proof.Machine
end

section
/-! Any number of steps: what a run keeps, and where it goes (spec/40_cycle.md R76 to R79). -/

namespace Sys2Proof.Machine

theorem run_history_length {n : Nat} {s t : State} (hon : s.running = true) (h : core.run n s = .next t) :
    t.history.length = s.history.length + n := by
  induction n generalizing s with
  | zero => cases h; rfl
  | succ n ih =>
    obtain ⟨u, hu, ht⟩ := run_cons h
    obtain ⟨-, -, hrun, -⟩ := step_frame hu
    rw [ih (hrun.trans hon) ht, step_appends_entryOf hon hu, List.length_append, List.length_singleton]
    omega

/-- Settles O17: every step completes, keeps the power on and appends one entry. -/
theorem runNeverHalts : Obligations.RunNeverHalts := by
  intro n s hon
  obtain ⟨t, ht⟩ := run_next n s
  obtain ⟨-, -, hrun⟩ := run_frame ht
  exact ⟨t, ht, step_next t, hrun.trans hon, run_history_length hon ht⟩

/-- Settles O19: what a run does not write reads as before. -/
theorem runKeepsProgramInputsPower : Obligations.RunKeepsProgramInputsPower := by
  intro n s t h
  obtain ⟨hins, himem, hrun⟩ := run_frame h
  exact ⟨fun b l => by rw [himem], fun k => by rw [readInput, readInput, hins], hrun⟩

/-- One step in a bank with no JUMP and no bank switch: the last row of R73's table. -/
theorem step_of_noTransfer {s t : State} (hon : s.running = true) (hbank : NoTransfer s.imem s.bank) (h : step s = .next t) :
    t.bank = s.bank ∧ t.pc.toNat = (s.pc.toNat + 1) % 8 := by
  obtain ⟨t', ht', -, -, hnext⟩ := nextFetchAddress s hon
  cases h.symm.trans ht'
  obtain ⟨hjump, hswitch⟩ := hbank s.pc
  exact hnext ⟨hswitch, fun hj => hjump hj.1⟩

theorem run_of_noTransfer {n : Nat} {s t : State} (hon : s.running = true) (hbank : NoTransfer s.imem s.bank)
    (h : core.run n s = .next t) : t.bank = s.bank ∧ t.pc.toNat = (s.pc.toNat + n) % 8 := by
  induction n generalizing s with
  | zero => cases h; exact ⟨rfl, (Nat.mod_eq_of_lt (BitVec.isLt _)).symm⟩
  | succ n ih =>
    obtain ⟨u, hu, ht⟩ := run_cons h
    obtain ⟨-, himem, hrun, -⟩ := step_frame hu
    obtain ⟨hb, hpc⟩ := step_of_noTransfer hon hbank hu
    obtain ⟨hb', hpc'⟩ := ih (hrun.trans hon) (by rwa [himem, hb]) ht
    exact ⟨hb'.trans hb, by omega⟩

/-- Settles O20: each step goes on to the next line modulo 8, in a bank that stays the same. -/
theorem bankWithoutTransfersLoops : Obligations.BankWithoutTransfersLoops := by
  intro n s hon hbank
  obtain ⟨t, ht⟩ := run_next n s
  exact ⟨t, ht, run_of_noTransfer hon hbank ht⟩

/-! ### Fixed points -/

/-- The fetched instruction leaves the running machine as it is, but for the trace. -/
def FixedPoint (s : State) : Prop := s.running = true ∧ exec (fetchInstr s) s = .next s

theorem step_of_fixedPoint {s : State} (h : FixedPoint s) : step s = .next (record (entryOf s) s) :=
  step_on h.1 h.2

/-- The trace entry of a fixed point does not change what comes next. -/
theorem fixedPoint_record {s : State} (h : FixedPoint s) (e : TraceEntry) : FixedPoint (record e s) :=
  ⟨h.1, exec_record e h.2⟩

/-- From a fixed point, any number of steps writes the trace only (R79). -/
theorem run_of_fixedPoint {s : State} (h : FixedPoint s) (n : Nat) : ∃ t, core.run n s = .next t ∧ SameMachine s t := by
  induction n generalizing s with
  | zero => exact ⟨s, rfl, ⟨rfl, rfl, rfl, rfl, rfl, rfl, rfl⟩, rfl, rfl⟩
  | succ n ih =>
    rw [run_succ n (step_of_fixedPoint h)]
    exact ih (fixedPoint_record h (entryOf s))

theorem eq_ofNat_of_toNat {w : Word} {n : Nat} (h : w.toNat = n) : w = BitVec.ofNat 5 n := by
  rw [← h, BitVec.ofNat_toNat, BitVec.setWidth_eq]

theorem switchBank_self {s : State} (h : s.pc = 0) : switchBank s.bank s = s := by
  rw [switchBank, ← h]

/-- STORE BANK_b at line 0 of bank b (R79). -/
theorem fixedPoint_storeBank {s : State} (hon : s.running = true) (hpc : s.pc = 0)
    (hword : (s.imem.read s.bank s.pc).toNat = 18 + s.bank.val) : FixedPoint s := by
  refine ⟨hon, ?_⟩
  rw [fetchInstr, fetchWord, eq_ofNat_of_toNat hword, exec_decode_storeBank, switchBank_self hpc]

theorem ofNat_jump : ∀ k : Line, BitVec.ofNat 5 (24 + k.toNat) = 0b11#2 ++ k := by decide

/-- JUMP l at line l, taken (R79). -/
theorem fixedPoint_jump {s : State} (hon : s.running = true) (hacc : s.acc = 0)
    (hword : (s.imem.read s.bank s.pc).toNat = 24 + s.pc.toNat) : FixedPoint s := by
  refine ⟨hon, ?_⟩
  rw [fetchInstr, fetchWord, eq_ofNat_of_toNat hword, ofNat_jump, decode_jump, execJump_taken s.pc hacc]
  rfl

/-- Settles O21: either instruction makes the state a fixed point of its step, and its trace entry keeps it one. -/
theorem fixedPointsRepeatForEver : Obligations.FixedPointsRepeatForEver :=
  ⟨fun n _ hon hpc hword => run_of_fixedPoint (fixedPoint_storeBank hon hpc hword) n,
    fun n _ hon hacc hword => run_of_fixedPoint (fixedPoint_jump hon hacc hword) n⟩

end Sys2Proof.Machine
end

section
/-! The input lines beside a step (spec/20_memory.md R41; spec/41_load.md R80). -/

namespace Sys2Proof.Machine

/-- An instruction whose word is not that of LOAD IN_k has the same effect whatever line k is: each LOAD reads its own line. -/
theorem effectOf_setInput {i : Instr} {k : InputLine} (h : (encode i).toNat ≠ k.val) (v : Bit) (s : State) :
    effectOf i (setInput k v s) = effectOf i s := by
  have hread : ∀ j : InputLine, (encode i).toNat = j.val → readInput j (setInput k v s) = readInput j s :=
    fun j hj => readInput_setInput_other v s fun hjk => h (by rw [hj, hjk])
  cases i
  case loadIn0 => exact congrArg (Effect.loadIn 0) (hread 0 rfl)
  case loadIn1 => exact congrArg (Effect.loadIn 1) (hread 1 rfl)
  case loadIn2 => exact congrArg (Effect.loadIn 2) (hread 2 rfl)
  case loadIn3 => exact congrArg (Effect.loadIn 3) (hread 3 rfl)
  case loadIn4 => exact congrArg (Effect.loadIn 4) (hread 4 rfl)
  case loadIn5 => exact congrArg (Effect.loadIn 5) (hread 5 rfl)
  case loadIn6 => exact congrArg (Effect.loadIn 6) (hread 6 rfl)
  all_goals rfl

/-- The step's entry does not show a line that the fetched instruction does not load. -/
theorem entryOf_setInput {s : State} {k : InputLine} (h : (fetchWord s).toNat ≠ k.val) (v : Bit) :
    entryOf (setInput k v s) = entryOf s := by
  have hword : (encode (fetchInstr s)).toNat ≠ k.val := eq_encode_of_decode (w := fetchWord s) rfl ▸ h
  exact congrArg (TraceEntry.mk _ _ _ _ _) (effectOf_setInput hword v s)

/-- Settles O23: the entry is the same, so the effect is, and effects touch no input line. -/
theorem unreadInputHasNoInfluence : Obligations.UnreadInputHasNoInfluence := by
  intro s t k v hon hword h
  have hon' : (setInput k v s).running = true := hon
  rw [step_running hon] at h
  cases h
  rw [step_running hon', entryOf_setInput hword, applyEffect_setInput]
  rfl

/-- A step call of a running machine, by the step it makes (R65, R132). -/
theorem hostCall_step_on {s t : State} {n : Int} (hon : s.running = true) (h : step (setTick n s) = .next t) :
    hostCall (.step n) s = .next (t, .traceEntry (entryOf (setTick n s))) := by
  simp only [hostCall, stepCall, hon, if_true, h, withReply]

theorem runCalls_step_on {s t : State} {n : Int} (hon : s.running = true) (h : step (setTick n s) = .next t) :
    runCalls [.step n] s = .next t := by
  simp only [runCalls, hostCall_step_on hon h]

theorem runCalls_setInput (k : InputLine) (v : Bit) (cs : List HostCall) (s : State) :
    runCalls (.setInput k v :: cs) s = runCalls cs (setInput k v s) := rfl

/-- The step of a machine that stands at LOAD IN_k. -/
theorem step_loadIn {s : State} {k : InputLine} (hon : s.running = true) (hword : (s.imem.read s.bank s.pc).toNat = k.val) :
    step s = .next (record (entryOf s) (loadBit (readInput k s) s)) := by
  refine step_on hon ?_
  rw [fetchInstr, fetchWord, eq_ofNat_of_toNat hword, exec_decode_loadIn]

/-- Settles O30: neither the call's tick nor the fetch touches the line that was set. -/
theorem inputChangeSeenByNextStep : Obligations.InputChangeSeenByNextStep := by
  intro s k v n hon hword
  have hstep := step_loadIn (s := setTick n (setInput k v s)) (k := k) hon hword
  exact ⟨_, (runCalls_setInput k v _ s).trans (runCalls_step_on hon hstep), readInput_setInput_same k v s,
    readInput_setInput_same k v s⟩

end Sys2Proof.Machine
end

section
/-! Turning the power off and setting an input (spec/60_exceptions.md R121 to R124; spec/70_reset_and_hazards.md R148). -/

namespace Sys2Proof.Machine

/-- Any number of steps of a machine that is off. -/
theorem run_off {s : State} (hoff : s.running = false) (n : Nat) : core.run n s = .next s := by
  induction n with
  | zero => rfl
  | succ n ih => rw [run_succ n (step_off hoff), ih]

/-- Any number of step calls on a machine that is off, whatever their ticks. -/
theorem runCalls_step_off {s : State} (hoff : s.running = false) (ticks : List Int) :
    runCalls (ticks.map .step) s = .next s := by
  induction ticks with
  | nil => rfl
  | cons n rest ih => simp only [List.map_cons, runCalls, hostCall_step_off hoff, ih]

theorem powerOff_of_off {s : State} (hoff : s.running = false) : powerOff s = s := by
  rw [powerOff, setRunning, ← hoff]

/-- Settles O28: the one write is the power state, and a machine that is off does not step. -/
theorem powerOffKeepsRegistersAndStopsSteps : Obligations.PowerOffKeepsRegistersAndStopsSteps :=
  fun s => ⟨powerOff s, rfl, rfl, ⟨rfl, rfl, rfl, rfl, rfl, rfl, rfl⟩, rfl, rfl, rfl, powerOff_of_off, run_off rfl,
    runCalls_step_off rfl⟩

/-- Settles O29: a read of the line gives what was written, a read of another what it held. -/
theorem setInputWritesOneLine : Obligations.SetInputWritesOneLine :=
  fun s i v => ⟨setInput i v s, rfl, readInput_setInput_same i v s, fun _ => readInput_setInput_other v s, fun _ _ => rfl,
    fun _ => rfl, ⟨rfl, rfl, rfl, rfl⟩, rfl, rfl, rfl, rfl⟩

end Sys2Proof.Machine
end

section
/-! The exported log (spec/60_exceptions.md R127 to R130, D13). -/

namespace Sys2Proof.Machine

theorem renderEntry_of_tick {e : TraceEntry} (h : 0 ≤ e.tick ∧ e.tick < 100000) :
    renderEntry e = .ok (asciiBytes ("[Tick ".toList ++ padTick e.tick.toNat ++ "] B".toList ++ [digitChar e.bank.val] ++
      " L".toList ++ [digitChar e.line.toNat] ++ ": ".toList) ++ renderEffect e) :=
  if_pos h

theorem renderEntry_refused {e : TraceEntry} (h : ¬ (0 ≤ e.tick ∧ e.tick < 100000)) :
    renderEntry e = .error .tickRendering :=
  if_neg h

/-- Five decimal digits make up a number below 100000. -/
theorem decimal_digits_sum {n : Nat} (h : n < 100000) :
    n = 10000 * (n / 10000 % 10) + 1000 * (n / 1000 % 10) + 100 * (n / 100 % 10) + 10 * (n / 10 % 10) + n % 10 := by
  omega

/-- Settles O37: the digits are those of `padTick`. -/
theorem logLineFormat : Obligations.LogLineFormat := by
  have hdigit : ∀ n, n % 10 < 10 := fun n => Nat.mod_lt n (by decide)
  refine ⟨fun e h0 h1 => ?_, fun e h => renderEntry_refused (by omega)⟩
  refine ⟨_, _, _, _, _, hdigit (e.tick.toNat / 10000), hdigit (e.tick.toNat / 1000), hdigit (e.tick.toNat / 100),
    hdigit (e.tick.toNat / 10), hdigit e.tick.toNat, ?_, ?_⟩
  · rw [← decimal_digits_sum (by omega), Int.toNat_of_nonneg h0]
  · rw [renderEntry_of_tick ⟨h0, h1⟩]
    simp [padTick, digitChar]

/-- Settles O38: the entry's one stated effect description, after its address and tick. -/
theorem scenarioLogLine : Obligations.ScenarioLogLine := by
  unfold Obligations.ScenarioLogLine
  rw [renderEntry_of_tick (by decide)]
  decide

/-! ### The whole history -/

/-- An item renders where its tick has a stated rendering. -/
theorem renderItem_of_tickRendered {it : TraceItem} (h : tickRendered it) : renderItem it = .ok (itemBytes it) := by
  cases it with
  | sentinel => rfl
  | entry e => simp only [itemBytes, renderItem, renderEntry_of_tick h]

theorem renderItem_refused {it : TraceItem} (h : ¬ tickRendered it) : renderItem it = .error .tickRendering := by
  cases it with
  | sentinel => exact absurd trivial h
  | entry e => exact renderEntry_refused h

theorem renderHistory_of_tickRendered {items : List TraceItem} (h : ∀ it ∈ items, tickRendered it) :
    renderHistory items = .ok (items.flatMap fun it => itemBytes it ++ [newline]) := by
  induction items with
  | nil => rfl
  | cons it rest ih =>
    obtain ⟨hit, hrest⟩ := List.forall_mem_cons.mp h
    simp [renderHistory, renderItem_of_tickRendered hit, ih hrest]

/-- One item without a rendering refuses the whole log: the items before it render, or are refused by the same name. -/
theorem renderHistory_refused {items : List TraceItem} (h : ∃ it ∈ items, ¬ tickRendered it) :
    renderHistory items = .error .tickRendering := by
  induction items with
  | nil => simp at h
  | cons it rest ih =>
    by_cases hit : tickRendered it
    · have hrest : ∃ it ∈ rest, ¬ tickRendered it := by simpa [hit] using h
      simp only [renderHistory, renderItem_of_tickRendered hit, ih hrest]
    · simp only [renderHistory, renderItem_refused hit]

/-- Settles O39: the call's reply is the rendering of the full history. -/
theorem exportRendersWholeHistory : Obligations.ExportRendersWholeHistory :=
  fun s => ⟨fun h => by simp only [hostCall, exportTrace, renderHistory_of_tickRendered h],
    fun h => by simp only [hostCall, exportTrace, renderHistory_refused h]⟩

end Sys2Proof.Machine
end

section
/-! Words and their instructions (spec/30_encoding.md R45 to R51). -/

namespace Sys2Proof

/-- Every instruction is read back from its word; NOR and JUMP with every operand. -/
theorem decode_encode (i : Instr) : decode (encode i) = i := by
  cases i
  case nor x => exact decode_nor x
  case jump k => exact decode_jump k
  all_goals rfl

/-- Settles O2: an instruction's word decodes to it, and a decoded instruction has one word. -/
theorem decodeEncodeAgree : Obligations.DecodeEncodeAgree :=
  ⟨decode_encode, fun _ => (eq_encode_of_decode rfl).symm⟩

/-- Settles O3: each vector is the word of its instruction, which is read back. -/
theorem vectorWordsDecode : Obligations.VectorWordsDecode :=
  ⟨decode_encode .loadIn0, decode_encode .loadIn6, decode_encode .loadRam, decode_encode (.nor 5), decode_encode .storeOut1,
    decode_encode .storeBank4, decode_encode .storeRam, decode_encode (.jump 7)⟩

/-- All that a table row's bits can decode to: the instruction of the word they make, where they make one (R60). -/
theorem decodeTableWord_eq_some_iff {nbits w : Nat} {i : Instr} :
    decodeTableWord nbits w = some i ↔
      tableValue nbits w < Config.wordValues ∧ decode (BitVec.ofNat 5 (tableValue nbits w)) = i := by
  by_cases h : tableValue nbits w < Config.wordValues <;> simp [decodeTableWord, decodeNumber, h]

theorem decodeTableWord_wide {nbits w : Nat} (h : 32 ≤ w % 2 ^ nbits) : decodeTableWord nbits w = none :=
  Option.eq_none_iff_forall_ne_some.mpr fun _ hi => absurd (decodeTableWord_eq_some_iff.mp hi).1 (Nat.not_lt.mpr h)

namespace Machine

@[simp] theorem fetchInstr_placeWord (w : Word) (s : State) : fetchInstr (placeWord w s) = decode w := by
  rw [fetchInstr, fetchWord, placeWord_imem, placeWord_bank, placeWord_pc, IMem.read_write_same]

/-- Settles O4: the row's word is placed at the fetch address and nowhere else. -/
theorem placedWordIsFetched : Obligations.PlacedWordIsFetched := by
  refine ⟨fun s nbits w i h => ?_, fun nbits w => decodeTableWord_wide⟩
  obtain ⟨hfits, hi⟩ := decodeTableWord_eq_some_iff.mp h
  rw [State.withFetchWord, if_pos hfits]
  exact ⟨by rw [fetchInstr_placeWord, hi], rfl, fun b l => IMem.read_write_other _ _⟩

end Machine

end Sys2Proof
end

section
/-! One step of a running machine and its trace entry (spec/40_cycle.md R65 to R75). -/

namespace Sys2Proof.Machine

theorem wellFormed_eq_true (i : Instr) : i.wellFormed = true := by
  cases i <;> rfl

/-- Settles O13: the step is the instruction's effect with the entry recorded, which is no register. -/
theorem stepRunsDecodedInstruction : Obligations.StepRunsDecodedInstruction := by
  rintro s _ hon rfl
  obtain ⟨t, ht⟩ := exec_next (fetchInstr s) s
  obtain ⟨-, -, -, hhistory, hview, -⟩ := exec_frame ht
  exact ⟨wellFormed_eq_true _, t, _, ht, step_on hon ht, by rw [record_history, hhistory], by rw [record_view, hview],
    rfl, rfl, rfl, rfl, rfl, rfl, rfl, rfl, rfl⟩

/-- Settles O14: the entry is made before the instruction runs, from the word it was fetched as. -/
theorem stepEntryReportsFetchAddress : Obligations.StepEntryReportsFetchAddress := by
  intro s hon
  obtain ⟨t, ht⟩ := step_next s
  exact ⟨t, entryOf s, ht, step_appends_entryOf hon ht, rfl, rfl, rfl, opcodeOf_toNat (fetchWord s),
    operandOf_toNat (fetchWord s)⟩

/-- Settles O31: the call's reply is the entry its step appends. -/
theorem stepCallReturnsItsEntry : Obligations.StepCallReturnsItsEntry := by
  intro s n hon
  obtain ⟨t, ht⟩ := step_next (setTick n s)
  exact ⟨t, entryOf (setTick n s), hostCall_step_on hon ht, rfl, step_appends_entryOf (s := setTick n s) hon ht, ht⟩

end Sys2Proof.Machine
end

section
/-! Turning the power on, and the snapshot (spec/60_exceptions.md R121, R131; spec/70_reset_and_hazards.md R135 to R139; D7). -/

namespace Sys2Proof.Machine

theorem powerOn_off {s : State} {x : Text} {m : IMem} (hoff : s.running = false) (h : load x = .ok m) :
    hostCall (.powerOn x) s = .next (setRunning true (setImem m (resetRegs s)), .nothing) := by
  simp [hostCall, powerOn, hoff, h, withReply]

theorem powerOn_on {s : State} (hon : s.running = true) (x : Text) : hostCall (.powerOn x) s = .next (s, .nothing) := by
  simp [hostCall, powerOn, hon, withReply]

/-- The empty text is one empty line, which stores nothing. -/
theorem load_nil : load [] = .ok IMem.zero := rfl

/-- Settles O25: the empty text leaves the cleared memory, whose words are the zero word. -/
theorem resetStateIsPowerOnOfEmptyText : Obligations.ResetStateIsPowerOnOfEmptyText := by
  refine ⟨powerOn_off rfl load_nil, rfl, rfl, rfl, rfl, fun j => readOut_resetRegs j State.construction, rfl, IMem.read_zero, ?_⟩
  rw [fetchInstr, fetchWord, reset_eq_powerOn, setRunning_imem, setImem_imem, IMem.read_zero]
  exact decode_encode .loadIn0

/-- Settles O26: reset, load and power as one event. -/
theorem powerOnResetsAndLoads : Obligations.PowerOnResetsAndLoads :=
  fun s _ _ hoff hload => ⟨_, powerOn_off hoff hload, rfl, rfl, rfl, rfl, rfl, rfl, fun j => readOut_resetRegs j s, rfl, rfl,
    rfl, rfl⟩

/-- Settles O27: the power check comes before the text is looked at (D7). -/
theorem powerOnWhileOnChangesNothing : Obligations.PowerOnWhileOnChangesNothing :=
  fun _ x hon => powerOn_on hon x

/-- Settles O32: the snapshot is a copy of the registers. -/
theorem snapshotShowsRegisters : Obligations.SnapshotShowsRegisters :=
  fun s => ⟨snapshot s, rfl, rfl, rfl, rfl, rfl, fun _ => rfl, fun _ => rfl, rfl⟩

end Sys2Proof.Machine
end
